-- ==== Sys2Proof/Word.lean ====
section
/-! DEFINITION. The widths of MQAID-CORE's values and the plainest arithmetic on them
(spec/00_scope.md R5, R7, R8). -/

namespace Sys2Proof

/-- One raw byte of the PCM stream, 8 bits (spec/20_memory.md R66). -/
abbrev Byte := BitVec 8

/-- A 32-bit value: a canonical sample, a pair count or an offset (spec/00_scope.md R5). -/
abbrev Word := BitVec 32

/-- A 36-bit window of one bit-plane (spec/10_state.md R29). -/
abbrev Window := BitVec 36

/-- A command word, 34 bits: `op` in bits 33:32, `arg` in bits 31:0 (spec/30_encoding.md R81). -/
abbrev CommandWord := BitVec 34

/-- A lane number k in 0..7; lane k is plane 16 + k (spec/41_correlator.md R124). -/
abbrev Lane := Fin 8

/-- `lsl(v, n)` of spec/00_scope.md R8: the top n bits are dropped, zeros fill. -/
abbrev lsl {w : Nat} (v : BitVec w) (n : Nat) : BitVec w := v <<< n

/-- `asr(v, n)` of spec/00_scope.md R8: the top bit is copied, so `s(asr(v, n)) = floor(s(v) / 2^n)`. -/
abbrev asr {w : Nat} (v : BitVec w) (n : Nat) : BitVec w := v.sshiftRight n

/-- `sat32(n)` of spec/00_scope.md R8: `min(n, 2^32 - 1)`. -/
def sat32 (n : Nat) : Nat := min n (2 ^ 32 - 1)

end Sys2Proof
end

