-- ==== Sys2Proof/Config.lean ====
section
/-! DEFINITION. The parameters of the block, every one fixed by the spec (spec/00_scope.md R5).
The widths that are types stand in Sys2Proof/Word.lean.
The pattern and its bit order, the one parameter the spec calls fragile
(spec/93_implementation_defined.md U11), stand in Sys2Proof/Machine/Pattern.lean.
The spec leaves no result of a command open. The only free values, what the block holds before its
first reset, have the type of its registers and stand in Sys2Proof/Machine/PowerUp.lean. -/

namespace Sys2Proof.Config

/-- The two values of sample_width_bits the block processes (R5, R159). -/
abbrev width16 : Nat := 16
/-- The other one, see `width16`. -/
abbrev width24 : Nat := 24

/-- The one value of channel_count the block processes (R5, R159). -/
abbrev stereo : Nat := 2

/-- `P_LO`: the lowest bit-plane index (R5). -/
abbrev planeLo : Nat := 16

/-- `P_HI`: the highest bit-plane index (R5). -/
abbrev planeHi : Nat := 23

/-- `NPLANES = P_HI - P_LO + 1`: the number of bit-planes, 8 (R5). -/
abbrev numPlanes : Nat := planeHi - planeLo + 1

/-- `PAT_LEN`: the length of the pattern in bits (R5). -/
abbrev patLen : Nat := 36

/-- The last value of a `CNT_W = 32` bit count, `2^32 - 1` (R5, spec/41_correlator.md R126). -/
abbrev countMax : Word := 0xFFFFFFFF#32

/-- The number of values of each 16-bit field of START (R5, spec/30_encoding.md R82). -/
abbrev fieldRange : Nat := 65536

end Sys2Proof.Config
end

