-- ==== Sys2Proof/Syntax.lean ====
section
/-! DEFINITION. The four commands of the block (spec/30_encoding.md R84), one constructor per row of
spec/opcode_table.json. -/

namespace Sys2Proof

/-- A decoded command. The operands are what R83 says they are: `channels` and `width` are the
numbers `u(cmd[31:16])` and `u(cmd[15:0])`, `byte` is the 8 bits `cmd[7:0]`. -/
inductive Instr where
  /-- `CLR`, format N, op 0: discard everything and go idle (R155). -/
  | clr
  /-- `START c, w`, format S, op 1: open a file (R156). -/
  | start (channels width : Nat)
  /-- `DATA b`, format D, op 2: take the next raw byte (R100). -/
  | data (byte : Byte)
  /-- `END`, format N, op 3: the byte buffer is finished (R161). -/
  | endFile
deriving DecidableEq, Repr

end Sys2Proof
end

