-- ==== Sys2Proof/WellFormed.lean ====
section
/-! DEFINITION. Which command terms have an encoding (spec/30_encoding.md R83, R90). -/

namespace Sys2Proof

/-- A number that a 16-bit field of START can carry, 0..65535 (R83). -/
def fitsField (n : Nat) : Bool := n < Config.fieldRange

/-- A command whose operands its format can carry (R82, R83, R90). A `data` operand is 8 bits by its
type, and `clr` and `endFile` have none, so only START's two numbers can be out of range. -/
def Instr.wellFormed : Instr → Bool
  | .clr => true
  | .start channels width => fitsField channels && fitsField width
  | .data _ => true
  | .endFile => true

end Sys2Proof
end

