-- ==== Sys2Proof/Decode.lean ====
section
/-! DEFINITION. Command words to commands and back (spec/30_encoding.md R81 to R86). -/

namespace Sys2Proof

/-- Bits 33:32, the opcode (R81). -/
def CommandWord.op (w : CommandWord) : BitVec 2 := w.extractLsb' 32 2

/-- Bits 31:0, the operand (R81). -/
def CommandWord.arg (w : CommandWord) : BitVec 32 := w.extractLsb' 0 32

/-- The decoder: every one of the 2^34 words is exactly one of the four commands (R85), and the
reserved bits of CLR, DATA and END are not looked at (R86). Fields are taken as they stand (R83). -/
def decode (w : CommandWord) : Instr :=
  if CommandWord.op w = 0#2 then .clr
  else if CommandWord.op w = 1#2 then
    .start ((CommandWord.arg w).extractLsb' 16 16).toNat ((CommandWord.arg w).extractLsb' 0 16).toNat
  else if CommandWord.op w = 2#2 then .data ((CommandWord.arg w).extractLsb' 0 8)
  else .endFile

/-- The canonical word of a command, its reserved bits 0 (R82, R86, R90). -/
def encode : Instr → CommandWord
  | .clr => 0#2 ++ 0#32
  | .start channels width => 1#2 ++ (BitVec.ofNat 16 channels ++ BitVec.ofNat 16 width)
  | .data byte => 2#2 ++ (0#24 ++ byte)
  | .endFile => 3#2 ++ 0#32

/-- A row of R84's table: a word w is the command of the row exactly when `w & mask = match`. -/
structure OpcodeRow where
  /-- The row's mask. -/
  mask : CommandWord
  /-- The row's match. -/
  value : CommandWord
deriving DecidableEq, Repr

/-- The row of R84 that a command belongs to. -/
def Instr.row : Instr → OpcodeRow
  | .clr => ⟨0x300000000#34, 0x000000000#34⟩
  | .start _ _ => ⟨0x300000000#34, 0x100000000#34⟩
  | .data _ => ⟨0x300000000#34, 0x200000000#34⟩
  | .endFile => ⟨0x300000000#34, 0x300000000#34⟩

/-- Why a number is no command word. -/
inductive DecodeError where
  /-- The number needs more than the 34 wires of `cmd` (R40, R81): no word of the block is meant.
  Raised by `decodeNumber`. Safe: nothing is executed. -/
  | widerThanCommandPort
deriving DecidableEq, Repr

/-- A number read as a command word (R90: a word is nine hexadecimal digits, the first 0 to 3). -/
def commandWordOf (n : Nat) : Except DecodeError CommandWord :=
  if n < 2 ^ 34 then .ok (BitVec.ofNat 34 n) else .error .widerThanCommandPort

/-- The command a number stands for, refused by name when it is wider than the port. -/
def decodeNumber (n : Nat) : Except DecodeError Instr :=
  match commandWordOf n with
  | .ok w => .ok (decode w)
  | .error e => .error e

/-- The bits of `w` below `nbits`, the others 0. -/
def lowBits (nbits w : Nat) : Nat := w % 2 ^ nbits

/-- The command the decoder reads from a row's bits as spec/opcode_table.json numbers them. A command
is one 34-bit word and the port carries it whole (R81), so there is no byte order to apply. -/
def decodeTableWord (nbits w : Nat) : Option Instr :=
  match decodeNumber (lowBits nbits w) with
  | .ok i => some i
  | .error _ => none

end Sys2Proof
end

