-- ==== Sys2Proof/Machine/State.lean ====
section
/-! DEFINITION. The state of the block: its thirteen registers (spec/10_state.md R20 to R33), the
registered event outputs (R42 to R44), and the model's own record of what the host drives on the
input ports (R40). One-bit registers and ports are `Bool`: `false` is 0, `true` is 1. -/

namespace Sys2Proof.Machine

/-- The values of `STATE` (R21). -/
inductive Phase where
  /-- 0: no file open, no result held. -/
  | idle
  /-- 1: a file is open, START succeeded and END has not been seen. -/
  | run
  /-- 2: END seen, the verdict is valid. -/
  | done
  /-- 3: the file failed, `ERRCODE` says why. -/
  | error
deriving DecidableEq, Repr, Inhabited

/-- The 2-bit value of `STATE` on port `state` (R21). -/
def Phase.code : Phase → BitVec 2
  | .idle => 0#2
  | .run => 1#2
  | .done => 2#2
  | .error => 3#2

/-- The values of `ERRCODE` (R22, spec/60_exceptions.md R181). -/
inductive ErrCode where
  /-- 0: `STATE` is not ERROR. -/
  | none
  /-- 1: sample_width_bits is neither 16 nor 24 (R182). -/
  | unsupportedFormat
  /-- 2: the width is good and channel_count is not 2 (R183). -/
  | invalidChannelLayout
  /-- 3: an odd number of complete samples (R185). -/
  | unpairedSample
deriving DecidableEq, Repr, Inhabited

/-- The 2-bit value of `ERRCODE` on port `err_code` (R22, R181). -/
def ErrCode.code : ErrCode → BitVec 2
  | .none => 0#2
  | .unsupportedFormat => 1#2
  | .invalidChannelLayout => 2#2
  | .unpairedSample => 3#2

/-- The thirteen registers, 641 bits, which are all the state the block has (R20). -/
structure Registers where
  /-- `STATE`, 2 bits (R21). -/
  state : Phase
  /-- `ERRCODE`, 2 bits (R22). -/
  errCode : ErrCode
  /-- `W24`, 1 bit: the open file has 24-bit samples (R23). -/
  w24 : Bool
  /-- `BIDX`, 2 bits: bytes of the current sample that have arrived (R24). -/
  bidx : BitVec 2
  /-- `B0`: first, least significant, byte of the current sample (R25). -/
  b0 : Byte
  /-- `B1`: second byte of the current sample, 24-bit files only (R26). -/
  b1 : Byte
  /-- `CH`, 1 bit: 1 when a left sample waits in `LEFT` (R27). -/
  ch : Bool
  /-- `LEFT`: the canonical left sample waiting for its right one (R28). -/
  left : Word
  /-- `WIN[k]`: the last 36 bits of plane 16 + k, newest at bit 0 (R29). -/
  win : Vector Window 8
  /-- `NPAIRS`: complete pairs since START, saturating (R30). -/
  npairs : Word
  /-- `OVF`, 1 bit, sticky: `NPAIRS` has lost count (R31). -/
  ovf : Bool
  /-- `HIT`: bit k says plane 16 + k has matched at least once (R32). -/
  hit : BitVec 8
  /-- `FIRST[k]`: offset of the first match of plane 16 + k (R33). -/
  first : Vector Word 8
deriving DecidableEq, Repr, Inhabited

/-- `S0`: every register at its reset value (R50). -/
def Registers.reset : Registers where
  state := .idle
  errCode := .none
  w24 := false
  bidx := 0#2
  b0 := 0#8
  b1 := 0#8
  ch := false
  left := 0#32
  win := Vector.replicate 8 0#36
  npairs := 0#32
  ovf := false
  hit := 0#8
  first := Vector.replicate 8 0#32

/-- A completed sample: `emit norm(ch, c)` (R44). -/
structure NormEvent where
  /-- `norm_ch`: 0 left, 1 right. -/
  ch : Bool
  /-- `norm_sample`: the canonical sample. -/
  sample : Word
deriving DecidableEq, Repr

/-- A completed pair: `emit pair(x, m, off)` (R44). -/
structure PairEvent where
  /-- `pair_bits`: the eight new plane bits. -/
  bits : BitVec 8
  /-- `match`: lanes in which an occurrence ends at this pair. -/
  hits : BitVec 8
  /-- `match_off`: where such an occurrence starts. -/
  off : Word
deriving DecidableEq, Repr

/-- What one step puts on the event ports (R44). -/
structure Events where
  /-- The sample event, if the step completed a sample. -/
  norm : Option NormEvent
  /-- The pair event, if the step completed a pair. -/
  pair : Option PairEvent
deriving DecidableEq, Repr, Inhabited

/-- A step that emits nothing (spec/00_scope.md R9). -/
def Events.silent : Events := ⟨none, none⟩

/-- The values of the input ports at one rising edge of `clk` (R40). -/
structure PortInput where
  /-- Synchronous reset, active high. -/
  rst : Bool
  /-- `cmd` holds a command to be accepted at this edge. -/
  cmdValid : Bool
  /-- The command word, ignored when `cmd_valid = 0`. -/
  cmd : CommandWord
deriving DecidableEq, Repr

/-- An edge at which the host drives neither a reset nor a command. -/
def PortInput.quiet : PortInput := ⟨false, false, 0#34⟩

/-- The machine. `regs` is the block's whole state in the spec's sense (R20). `events` is the
registered event outputs, which the spec calls a function of the last step and not state (R20, R44);
they stand here because a step of the host's interface returns a state and nothing else.
`inputs`, `resetSeen` and `draws` are the model's own. -/
structure State where
  /-- The thirteen registers (R20). -/
  regs : Registers
  /-- What the event ports show after the last edge (R42, R43, R44). -/
  events : Events
  /-- What the host will drive at the coming edges, the next one first. MODEL'S OWN: R10 gives the
  choice of commands to the host, and no register of the block holds it. -/
  inputs : List PortInput
  /-- An edge with `rst = 1` has been seen since power-up. MODEL'S OWN: it is what
  spec/70_reset_and_hazards.md R211 makes the meaning of a command depend on. -/
  resetSeen : Bool
  /-- How many unspecified values have been drawn. MODEL'S OWN: an edge before the first reset takes the
  free values of this number (Machine/PowerUp.lean) and counts on. No output shows it. -/
  draws : Nat
deriving DecidableEq, Repr

/-- The machine right after reset: `S0`, silent event ports (R50), nothing driven yet. -/
def State.reset : State where
  regs := .reset
  events := .silent
  inputs := []
  resetSeen := true
  draws := 0

/-- The block has no fault: an error condition is a value of the state and the step function never
gets stuck (spec/00_scope.md R6, spec/60_exceptions.md R180). So this closed inductive has no
constructor: nothing raises a fault, and that no step faults holds by the type. -/
inductive Fault : Type
deriving DecidableEq, Repr

/-- Why the model gives a step no meaning. -/
inductive Refusal where
  /-- The instruction of this mnemonic has no meaning yet. Raised by no arm of `exec` of this model:
  every command has its meaning. Safe: nothing is claimed of the instruction. -/
  | notModelled (mnemonic : String)
  /-- A command accepted before the first reset after power-up, to which the spec forbids giving a
  meaning (spec/70_reset_and_hazards.md R211, spec/93_implementation_defined.md U1). Raised by
  `clockEdge` and never by a meaning. Safe: the model says nothing where the hardware does something
  unspecified. -/
  | commandBeforeReset
deriving DecidableEq, Repr

end Sys2Proof.Machine
end

