-- ==== Sys2Proof/Machine/Operands.lean ====
section
/-! DEFINITION. What the operands of START and DATA stand for: the two checks of a descriptor
(spec/43_driver_commands.md R159, R160) and the assembly of bytes into a canonical sample
(spec/40_normalizer.md R102 to R105). -/

namespace Sys2Proof.Machine

/-- sample_width_bits is one the normalizer processes (R112, R159). -/
def widthSupported (width : Nat) : Bool := width == Config.width16 || width == Config.width24

/-- channel_count is the one the correlator processes (R129, R159). -/
def channelsSupported (channels : Nat) : Bool := channels == Config.stereo

/-- The error a descriptor gives, if any: the width is checked first (R159, R186). -/
def descriptorError (channels width : Nat) : Option ErrCode :=
  if !widthSupported width then some .unsupportedFormat
  else if !channelsSupported channels then some .invalidChannelLayout
  else none

/-- The value `W24` takes for a supported width (R23, R160). -/
def widthFlag (width : Nat) : Bool := width == Config.width24

/-- `last` of R100: the next byte completes a sample. -/
def lastByte (w24 : Bool) (bidx : BitVec 2) : Bool :=
  (!w24 && bidx == 1#2) || (w24 && bidx == 2#2)

/-- The raw 16-bit sample `{d1, d0}`: the first byte to arrive is the least significant (R61, R103). -/
def raw16 (d0 d1 : Byte) : BitVec 16 := d1 ++ d0

/-- The raw 24-bit sample `{d2, d1, d0}` (R61, R104). -/
def raw24 (d0 d1 d2 : Byte) : BitVec 24 := d2 ++ (d1 ++ d0)

/-- The canonical sample of a 16-bit file: `{d1, d0, 16'h0000}` (R103). -/
def canonical16 (d0 d1 : Byte) : Word := raw16 d0 d1 ++ 0#16

/-- The canonical sample of a 24-bit file: `{d2, d1, d0, 8'h00}` (R104). -/
def canonical24 (d0 d1 d2 : Byte) : Word := raw24 d0 d1 d2 ++ 0#8

/-- The canonical sample that the byte `d` completes, from the bytes the registers hold (R100). -/
def completedSample (r : Registers) (d : Byte) : Word :=
  if r.w24 then canonical24 r.b0 r.b1 d else canonical16 r.b0 d

end Sys2Proof.Machine
end

