-- ==== Sys2Proof/Machine/PowerUp.lean ====
section
/-! DEFINITION. The free values of the model: what the registers and the event outputs hold before the
first reset after power-up, which the spec leaves unspecified (spec/70_reset_and_hazards.md R211,
spec/93_implementation_defined.md U1). They have no body, so nothing can be proved of what they are. -/

namespace Sys2Proof.Config

/-- The registers after the n-th unspecified edge. A run draws a new one at every edge before its first
reset, because R211 forbids assuming even one value per run. DESIGN CHOICE (notes/assumptions/3.md). -/
opaque powerUpRegisters : Nat → Machine.Registers

/-- The event outputs after the same edge: R211 leaves every output but `cmd_ready` unspecified. -/
opaque powerUpEvents : Nat → Machine.Events

end Sys2Proof.Config
end

