-- ==== Sys2Proof/Machine/Ops.lean ====
section
/-! DEFINITION. The named operations over the registers that several commands share. The block has no
memory and no register file, so there is nothing else to read or write (spec/10_state.md R35,
spec/20_memory.md R60). -/

namespace Sys2Proof.Machine

/-- `raise <Error>(code)`: `STATE <- ERROR; ERRCODE <- code` and nothing else. This is all the block has
in the place of taking an exception: nothing is saved and nothing is vectored
(spec/60_exceptions.md R187). -/
def Registers.raise (r : Registers) (code : ErrCode) : Registers :=
  { r with state := .error, errCode := code }

/-- Every register takes its value in `S0`. CLR, START and reset share it (spec/10_state.md R51), and it
is all the block has in the place of returning from an exception: no command resumes the failed file
(spec/60_exceptions.md R191). -/
def Registers.clear (_ : Registers) : Registers := .reset

/-- `STATE <- RUN; ERRCODE <- 0; W24 <- w24` (spec/43_driver_commands.md R160). -/
def Registers.openFile (r : Registers) (w24 : Bool) : Registers :=
  { r with state := .run, errCode := .none, w24 := w24 }

/-- `BIDX <- 0`: the bytes of an incomplete last sample are dropped (spec/43_driver_commands.md R162). -/
def Registers.dropPartial (r : Registers) : Registers := { r with bidx := 0#2 }

/-- `STATE <- DONE` (spec/43_driver_commands.md R164). -/
def Registers.finish (r : Registers) : Registers := { r with state := .done }

/-- A byte that does not complete a sample is stored and counted (spec/40_normalizer.md R100, R102). -/
def Registers.storeByte (r : Registers) (d : Byte) : Registers :=
  if r.bidx = 0#2 then { r with b0 := d, bidx := r.bidx + 1#2 }
  else { r with b1 := d, bidx := r.bidx + 1#2 }

/-- The end of a step: the registers and the event outputs take their new values at the same edge
(spec/00_scope.md R9, spec/70_reset_and_hazards.md R221). -/
def State.commit (s : State) (step : Registers × Events) : State :=
  { s with regs := step.1, events := step.2 }

/-- An edge with `rst = 1`: the registers become `S0` and the event outputs 0, from whatever state
(spec/70_reset_and_hazards.md R210). -/
def State.afterReset (s : State) : State :=
  { s with regs := s.regs.clear, events := .silent, resetSeen := true }

/-- An edge with neither a reset nor a command: no register changes and the event outputs become 0
(spec/70_reset_and_hazards.md R222). -/
def State.afterIdle (s : State) : State := { s with events := .silent }

/-- The same edge before the first reset after power-up: every register and every event output has an
unspecified value, another one after every edge (spec/70_reset_and_hazards.md R211). -/
def State.afterUnreset (s : State) : State :=
  { s with
    regs := Config.powerUpRegisters s.draws
    events := Config.powerUpEvents s.draws
    draws := s.draws + 1 }

end Sys2Proof.Machine
end

