-- ==== Sys2Proof/Machine/Driver.lean ====
section
/-! DEFINITION. The sequencing commands CLR, START and END (spec/43_driver_commands.md R155 to R166). -/

namespace Sys2Proof.Machine

/-- CLR on the registers: everything to its reset value (R155). -/
def clrStep (r : Registers) : Registers × Events := (r.clear, .silent)

/-- START on the registers: everything is discarded first (R157), then the descriptor's two checks
decide between ERROR and RUN (R156, R159, R160). -/
def startStep (channels width : Nat) (r : Registers) : Registers × Events :=
  match descriptorError channels width with
  | some code => (r.clear.raise code, .silent)
  | none => (r.clear.openFile (widthFlag width), .silent)

/-- END on the registers (R161): ignored outside RUN (R166); the partial sample is dropped (R162); a
waiting left sample is UnpairedSample (R163); otherwise DONE (R164). -/
def endStep (r : Registers) : Registers × Events :=
  if r.state = .run then
    if r.ch then (r.dropPartial.raise .unpairedSample, .silent) else (r.dropPartial.finish, .silent)
  else (r, .silent)

/-- `CLR` (R155). -/
def execClr (s : State) : Host.Outcome State Fault Refusal := .next (s.commit (clrStep s.regs))

/-- `START c, w` (R156). -/
def execStart (channels width : Nat) (s : State) : Host.Outcome State Fault Refusal :=
  .next (s.commit (startStep channels width s.regs))

/-- `END` (R161). -/
def execEndFile (s : State) : Host.Outcome State Fault Refusal := .next (s.commit (endStep s.regs))

end Sys2Proof.Machine
end

