-- ==== Sys2Proof/Machine/Flags.lean ====
section
/-! DEFINITION. The counter, the sticky flags and the offsets of a pair step
(spec/41_correlator.md R126, spec/42_matcher.md R139, R140). -/

namespace Sys2Proof.Machine

/-- `n` of R120, the value `NPAIRS` has after the step: one more, stopping at `2^32 - 1` (R126). -/
def nextCount (npairs : Word) : Word :=
  if npairs = Config.countMax then Config.countMax else npairs + 1#32

/-- `OVF` after the step: set when a pair arrives with `NPAIRS` already `2^32 - 1`, never cleared by a
pair step (R31, R126). -/
def nextOverflow (npairs : Word) (ovf : Bool) : Bool := ovf || npairs == Config.countMax

/-- The count says that a window holds 36 bits of this file, `n >= 36` (R138). -/
def windowFull (n : Word) : Bool := Config.patLen ≤ n.toNat

/-- `off` of R120: `n - 36`, or 0 while fewer than 36 pairs have arrived (R139). -/
def matchOffset (n : Word) : Word :=
  if windowFull n then n - BitVec.ofNat 32 Config.patLen else 0#32

/-- `HIT <- HIT | m` (R140). -/
def nextHit (hit m : BitVec 8) : BitVec 8 := hit ||| m

/-- `FIRST[k]` after the step: written with `off` for a lane that matches and had not matched before,
kept in every other case (R140). -/
def nextFirst (first : Vector Word 8) (hit m : BitVec 8) (off : Word) : Vector Word 8 :=
  Vector.ofFn fun k : Lane => if m[k] && !hit[k] then off else first[k]

end Sys2Proof.Machine
end

