-- ==== Sys2Proof/Machine/Pattern.lean ====
section
/-! DEFINITION. The 36-bit pattern, its bit order along a plane, and the window shift
(spec/10_state.md R34, spec/42_matcher.md R135, R136). The value and the order are the spec's fragile
parameter (spec/93_implementation_defined.md U11): they stand here and nowhere else. -/

namespace Sys2Proof.Machine

/-- `MAGIC`, the 36-bit constant, wired and not state (R34). -/
def magic : Window := 0xBE0498C88#36

/-- `pat(0), ..., pat(35)`: the pattern in the order of the stream, earliest pair first,
`pat(j) = MAGIC[35 - j]` (R135). The spec asks for the order to sit in one place: it is this list. -/
def pat : List Bool := (List.range Config.patLen).map fun j => magic.getLsbD (35 - j)

/-- `{w[34:0], b}`: the window shifts left by one, its oldest bit is dropped and the new plane bit
enters at bit 0 (R136). -/
def shiftIn (w : Window) (b : Bool) : Window := w.extractLsb' 0 35 ++ BitVec.ofBool b

/-- The window that has just seen a list of plane bits, the earliest first, from an empty one (R137). -/
def windowOf (bits : List Bool) : Window := bits.foldl shiftIn 0#36

/-- The window that has just seen the whole pattern. It is `MAGIC` (`matchWord_eq_magic`), because R135
lays the most significant bit first. -/
def matchWord : Window := windowOf pat

end Sys2Proof.Machine
end

