-- ==== Sys2Proof/Machine/Matcher.lean ====
section
/-! DEFINITION. The Pattern Matcher: eight 36-bit windows compared with the pattern at every new bit
(spec/42_matcher.md R136 to R140). -/

namespace Sys2Proof.Machine

/-- The eight windows after a pair with plane bits `x`; lane k takes `x[k]` (R124, R136). -/
def shiftWindows (win : Vector Window 8) (x : BitVec 8) : Vector Window 8 :=
  Vector.ofFn fun k : Lane => shiftIn win[k] x[k]

/-- `m`: lane k matches exactly when `n >= 36` and its shifted window is the pattern (R138). -/
def matchBits (n : Word) (win : Vector Window 8) : BitVec 8 :=
  BitVec.ofFnLE fun k : Lane => windowFull n && win[k] == matchWord

end Sys2Proof.Machine
end

