-- ==== Sys2Proof/Machine/Correlator.lean ====
section
/-! DEFINITION. The Channel Correlator: the pair step that runs when a right sample completes
(spec/41_correlator.md R120 to R127). -/

namespace Sys2Proof.Machine

/-- `x = (l ^ r)[23:16]`: bit k is the new element of plane 16 + k (R122). -/
def planeBits (l r : Word) : BitVec 8 := (l ^^^ r).extractLsb' Config.planeLo 8

/-- `pair_step(l, r)` (R120): the registers it writes and the pair event it emits. -/
def pairStep (l r : Word) (s : Registers) : Registers × PairEvent :=
  let x := planeBits l r
  let n := nextCount s.npairs
  let off := matchOffset n
  let win := shiftWindows s.win x
  let m := matchBits n win
  ({ s with
      npairs := n
      ovf := nextOverflow s.npairs s.ovf
      win := win
      hit := nextHit s.hit m
      first := nextFirst s.first s.hit m off },
   ⟨x, m, off⟩)

end Sys2Proof.Machine
end

