-- ==== Sys2Proof/Machine/Normalizer.lean ====
section
/-! DEFINITION. The DATA command and the Sample Normalizer (spec/40_normalizer.md R100 to R109). -/

namespace Sys2Proof.Machine

/-- A completed sample `c` (R108, R109): a left one waits in `LEFT`; a right one goes through the pair
step with its left partner. `CH` of the event is the value before the step. -/
def takeSample (c : Word) (r : Registers) : Registers × Events :=
  if r.ch then
    let p := pairStep r.left c { r with ch := false }
    (p.1, ⟨some ⟨true, c⟩, some p.2⟩)
  else ({ r with left := c, ch := true }, ⟨some ⟨false, c⟩, none⟩)

/-- The whole of DATA on the registers (R100); outside RUN it does nothing (R101). -/
def dataStep (d : Byte) (r : Registers) : Registers × Events :=
  if r.state = .run then
    if lastByte r.w24 r.bidx then takeSample (completedSample r d) { r with bidx := 0#2 }
    else (r.storeByte d, .silent)
  else (r, .silent)

/-- `DATA b` (R100). -/
def execData (d : Byte) (s : State) : Host.Outcome State Fault Refusal :=
  .next (s.commit (dataStep d s.regs))

end Sys2Proof.Machine
end

