-- ==== Sys2Proof/Machine/Dispatch.lean ====
section
/-! DEFINITION. One arm per command: the step function of spec/00_scope.md R6. -/

namespace Sys2Proof.Machine

def exec (i : Instr) (s : State) : Host.Outcome State Fault Refusal :=
  match i with
  | .clr => Sys2Proof.Machine.execClr s
  | .start channels width => Sys2Proof.Machine.execStart channels width s
  | .data byte => Sys2Proof.Machine.execData byte s
  | .endFile => Sys2Proof.Machine.execEndFile s

end Sys2Proof.Machine
end

