-- ==== Sys2Proof/Machine/Port.lean ====
section
/-! DEFINITION. The command port: what one rising edge of `clk` does with the inputs the host drives
(spec/30_encoding.md R80, spec/70_reset_and_hazards.md R210 to R213, R221, R222). -/

namespace Sys2Proof.Machine

/-- The input ports at the coming edge. When the host's list is at its end it drives neither a reset nor
a command: the block never acts on its own (R190). -/
def State.port (s : State) : PortInput := s.inputs.headD .quiet

/-- The same machine with the coming edge's inputs consumed. -/
def State.popPort (s : State) : State := { s with inputs := s.inputs.tail }

/-- The command accepted at an edge: one exactly when `rst = 0` and `cmd_valid = 1` (R80, R212). -/
def PortInput.accepted (p : PortInput) : Option Instr :=
  if !p.rst && p.cmdValid then some (decode p.cmd) else none

/-- An accepted command takes its step (R6); before the first reset it has no meaning (R211). -/
def State.accept (s : State) (i : Instr) : Host.Outcome State Fault Refusal :=
  if s.resetSeen then exec i s else .refused .commandBeforeReset

/-- An edge with neither a reset nor a command: after a reset it changes no register (R222); before the
first one nothing keeps a value (R211). -/
def State.quietEdge (s : State) : State := if s.resetSeen then s.afterIdle else s.afterUnreset

/-- One rising edge of `clk` (R80): reset beats a command (R212). -/
def clockEdge (s : State) : Host.Outcome State Fault Refusal :=
  if s.port.rst then .next s.popPort.afterReset
  else
    match s.port.accepted with
    | some i => s.popPort.accept i
    | none => .next s.popPort.quietEdge

/-- The host presents a command word at the coming edge, before whatever it was to drive next. That
resets nothing: presented before the first reset, the command is still refused (R211, R214). -/
def State.present (s : State) (w : CommandWord) : State :=
  { s with inputs := ⟨false, true, w⟩ :: s.inputs }

/-- As `State.present`, for a row's bits as spec/opcode_table.json numbers them. A number wider than the
34 wires of `cmd` is no command word, and nothing is presented. -/
def State.presentTableWord (s : State) (nbits w : Nat) : State :=
  match commandWordOf (lowBits nbits w) with
  | .ok cmd => s.present cmd
  | .error _ => s

end Sys2Proof.Machine
end

