-- ==== Sys2Proof/Machine/Step.lean ====
section
/-! DEFINITION. One step of the machine is one rising edge of `clk`. -/

namespace Sys2Proof.Machine

/-- One step: the inputs of the coming edge are taken and the block does what they ask
(spec/30_encoding.md R80). -/
def step (s : State) : Host.Outcome State Fault Refusal := clockEdge s

/-- `s` with the command word of a row of spec/opcode_table.json presented at the very next edge. In a
state that has seen a reset, as `State.reset` has, the next step runs it; in any other R211 gives it no
meaning. -/
def State.withFetchWord (s : State) (nbits w : Nat) : State := s.presentTableWord nbits w

end Sys2Proof.Machine
end

