-- ==== Sys2Proof/Machine/HostText.lean ====
section
/-! DEFINITION. The host's side of the command port: the text form of a command sequence and what it
stands for on the ports (spec/30_encoding.md R90 to R94), and the host's descriptor duty
(spec/70_reset_and_hazards.md R214, R216). Nothing here is state of the block. -/

namespace Sys2Proof.Machine

/-- One line of the text form: a command (R90), a pseudo-command (R91 to R93), or the two lines that
are no command (R93). -/
inductive HostLine where
  /-- `CLR`. -/
  | clr
  /-- `START c, w`. -/
  | start (c w : Nat)
  /-- `DATA b`. -/
  | data (b : Nat)
  /-- `END`. -/
  | endFile
  /-- `S16 v`. -/
  | s16 (v : Int)
  /-- `S24 v`. -/
  | s24 (v : Int)
  /-- `FRAME16 l, r`. -/
  | frame16 (l r : Int)
  /-- `FRAME24 l, r`. -/
  | frame24 (l r : Int)
  /-- `BYTES b0 b1 ... bn`. -/
  | bytes (bs : List Nat)
  /-- `IDLE n`. -/
  | idle (n : Nat)
  /-- `RESET`. -/
  | reset
deriving DecidableEq, Repr

/-- The range of `S16`'s operand, -32768..65535 (R91). -/
def inRange16 (v : Int) : Bool := -32768 ≤ v && v ≤ 65535

/-- The range of `S24`'s operand, -8388608..16777215 (R91). -/
def inRange24 (v : Int) : Bool := -8388608 ≤ v && v ≤ 16777215

/-- A line whose numbers are in the ranges of R90 and R91. -/
def HostLine.inRange : HostLine → Bool
  | .start c w => fitsField c && fitsField w
  | .data b => b < 256
  | .s16 v => inRange16 v
  | .s24 v => inRange24 v
  | .frame16 l r => inRange16 l && inRange16 r
  | .frame24 l r => inRange24 l && inRange24 r
  | .bytes bs => bs.all (· < 256)
  | .clr | .endFile | .idle _ | .reset => true

/-- The two DATA commands of `S16 v`, least significant byte first (R91). -/
def s16Commands (v : Int) : List Instr :=
  let u := (v % 65536).toNat
  [.data (BitVec.ofNat 8 (u % 256)), .data (BitVec.ofNat 8 (u / 256 % 256))]

/-- The three DATA commands of `S24 v`, least significant byte first (R91). -/
def s24Commands (v : Int) : List Instr :=
  let u := (v % 16777216).toNat
  [.data (BitVec.ofNat 8 (u % 256)), .data (BitVec.ofNat 8 (u / 256 % 256)),
   .data (BitVec.ofNat 8 (u / 65536 % 256))]

/-- The commands a line stands for (R90 to R93); `IDLE` and `RESET` stand for none. -/
def HostLine.commands : HostLine → List Instr
  | .clr => [.clr]
  | .start c w => [.start c w]
  | .data b => [.data (BitVec.ofNat 8 b)]
  | .endFile => [.endFile]
  | .s16 v => s16Commands v
  | .s24 v => s24Commands v
  | .frame16 l r => s16Commands l ++ s16Commands r
  | .frame24 l r => s24Commands l ++ s24Commands r
  | .bytes bs => bs.map fun b => .data (BitVec.ofNat 8 b)
  | .idle _ | .reset => []

/-- The edge at which a command is presented (R40, R80). -/
def PortInput.command (i : Instr) : PortInput := ⟨false, true, encode i⟩

/-- The edge at which reset is applied (R210). -/
def PortInput.resetEdge : PortInput := ⟨true, false, 0#34⟩

/-- What a line does on the ports, edge by edge (R93: `IDLE n` is n edges with `cmd_valid = 0`, `RESET`
one edge with `rst = 1`). -/
def HostLine.edges : HostLine → List PortInput
  | .idle n => List.replicate n .quiet
  | .reset => [.resetEdge]
  | line => line.commands.map .command

/-- What a whole text does on the ports. -/
def hostEdges (lines : List HostLine) : List PortInput := lines.flatMap HostLine.edges

/-- The value the host must put in a 16-bit field of START: 65535 for a number that does not fit
(R158, R216). -/
def saturateField (n : Nat) : Nat := min n (Config.fieldRange - 1)

/-- The START a dutiful host presents for a decoder's descriptor (R216). -/
def hostStart (channels width : Nat) : Instr := .start (saturateField channels) (saturateField width)

/-- What a host presents for one file: START, the file's bytes in buffer order, END (R214). -/
def hostFile (channels width : Nat) (bytes : List Byte) : List Instr :=
  hostStart channels width :: (bytes.map .data ++ [.endFile])

/-- A hexadecimal digit as a character. -/
def hexDigit (n : Nat) : Char :=
  if n < 10 then Char.ofNat (48 + n) else Char.ofNat (55 + n)

/-- A word spelt as nine hexadecimal digits, the most significant first (R90, R94). -/
def spellWord (w : CommandWord) : List Char :=
  ['0', 'x'] ++ (List.range 9).map fun j => hexDigit (w.toNat / 16 ^ (8 - j) % 16)

/-- The value of a decimal or hexadecimal digit. -/
def digitValue (c : Char) : Option Nat :=
  let n := c.toNat
  if 48 ≤ n && n ≤ 57 then some (n - 48)
  else if 65 ≤ n && n ≤ 70 then some (n - 55)
  else if 97 ≤ n && n ≤ 102 then some (n - 87)
  else none

/-- Digits of a base, after those already read. -/
def readDigits (base : Nat) : Nat → List Char → Option Nat
  | acc, [] => some acc
  | acc, c :: cs =>
    match digitValue c with
    | some d => if d < base then readDigits base (acc * base + d) cs else none
    | none => none

/-- A number, decimal or hexadecimal with `0x` (R90). -/
def readNat : List Char → Option Nat
  | [] => none
  | ['0', 'x'] => none
  | '0' :: 'x' :: cs => readDigits 16 0 cs
  | cs => readDigits 10 0 cs

/-- A number that may carry a minus sign (R91). -/
def readInt : List Char → Option Int
  | '-' :: cs => (readNat cs).map fun n => -(n : Int)
  | cs => (readNat cs).map fun n => (n : Int)

/-- A line without its comment (R90: `;` starts a comment). -/
def dropComment (line : List Char) : List Char := line.takeWhile (· != ';')

/-- The characters that stand between a mnemonic and its numbers. -/
def isSeparator (c : Char) : Bool := c == ' ' || c == ',' || c == '\t'

/-- The words of a line, the last one read first. -/
def splitWords : List Char → List Char → List (List Char)
  | cur, [] => if cur.isEmpty then [] else [cur.reverse]
  | cur, c :: cs =>
    if isSeparator c then (if cur.isEmpty then splitWords [] cs else cur.reverse :: splitWords [] cs)
    else splitWords (c :: cur) cs

/-- The line a list of words spells, its mnemonic in upper case (R90 to R93). -/
def lineOfWords : List (List Char) → Option HostLine
  | [] => none
  | m :: args =>
    if m = ['C', 'L', 'R'] then (if args.isEmpty then some .clr else none)
    else if m = ['E', 'N', 'D'] then (if args.isEmpty then some .endFile else none)
    else if m = ['R', 'E', 'S', 'E', 'T'] then (if args.isEmpty then some .reset else none)
    else if m = ['S', 'T', 'A', 'R', 'T'] then
      match args.mapM readNat with
      | some [c, w] => some (.start c w)
      | _ => none
    else if m = ['D', 'A', 'T', 'A'] then
      match args.mapM readNat with
      | some [b] => some (.data b)
      | _ => none
    else if m = ['I', 'D', 'L', 'E'] then
      match args.mapM readNat with
      | some [n] => some (.idle n)
      | _ => none
    else if m = ['B', 'Y', 'T', 'E', 'S'] then
      match args.mapM readNat with
      | some (b :: bs) => some (.bytes (b :: bs))
      | _ => none
    else if m = ['S', '1', '6'] then
      match args.mapM readInt with
      | some [v] => some (.s16 v)
      | _ => none
    else if m = ['S', '2', '4'] then
      match args.mapM readInt with
      | some [v] => some (.s24 v)
      | _ => none
    else if m = ['F', 'R', 'A', 'M', 'E', '1', '6'] then
      match args.mapM readInt with
      | some [l, r] => some (.frame16 l r)
      | _ => none
    else if m = ['F', 'R', 'A', 'M', 'E', '2', '4'] then
      match args.mapM readInt with
      | some [l, r] => some (.frame24 l r)
      | _ => none
    else none

/-- One line of text: `some []` for a blank or comment line, `none` for a line that spells nothing or
whose numbers are out of range. -/
def readLine (line : List Char) : Option (List HostLine) :=
  match splitWords [] (dropComment line) with
  | [] => some []
  | ws =>
    match lineOfWords ws with
    | some l => if l.inRange then some [l] else none
    | none => none

end Sys2Proof.Machine
end

