-- ==== Sys2Proof/Machine/Outputs.lean ====
section
/-! DEFINITION. The output ports: the function `out` of spec/00_scope.md R6, which
spec/10_state.md R41 and spec/43_driver_commands.md R168 to R171 define, and the registered event
ports (spec/10_state.md R42, R43). -/

namespace Sys2Proof.Machine

/-- The level output ports (R41). -/
structure LevelOutputs where
  /-- `cmd_ready`, constant 1 (R80). -/
  cmdReady : Bool
  /-- `state`. -/
  state : BitVec 2
  /-- `err_code`. -/
  errCode : BitVec 2
  /-- `result_valid`. -/
  resultValid : Bool
  /-- `found`. -/
  found : Bool
  /-- `matched_planes`. -/
  matchedPlanes : BitVec 8
  /-- `first_off_0` to `first_off_7`. -/
  firstOff : Vector Word 8
  /-- `npairs`. -/
  npairs : Word
  /-- `ovf`. -/
  ovf : Bool
deriving DecidableEq, Repr

/-- The event output ports (R42, R43). -/
structure EventPorts where
  /-- `norm_valid`. -/
  normValid : Bool
  /-- `norm_ch`. -/
  normCh : Bool
  /-- `norm_sample`. -/
  normSample : Word
  /-- `pair_valid`. -/
  pairValid : Bool
  /-- `pair_bits`. -/
  pairBits : BitVec 8
  /-- `match`. -/
  hits : BitVec 8
  /-- `match_off`. -/
  off : Word
deriving DecidableEq, Repr

/-- `cmd_ready` is constant, also before the first reset (R80, R211). -/
def State.cmdReady (_ : State) : Bool := true

/-- `STATE = DONE`, on which every result port is gated (R168). -/
def resultValid (r : Registers) : Bool := r.state == .done

/-- `out`: the level outputs as a function of the registers (R41). -/
def levelOutputs (r : Registers) : LevelOutputs where
  cmdReady := true
  state := r.state.code
  errCode := r.errCode.code
  resultValid := resultValid r
  found := resultValid r && r.hit != 0#8
  matchedPlanes := if resultValid r then r.hit else 0#8
  firstOff := Vector.ofFn fun k : Lane => if resultValid r && r.hit[k] then r.first[k] else 0#32
  npairs := r.npairs
  ovf := r.ovf

/-- The event ports: present means valid = 1 with the fields, absent means all zeros (R44). -/
def eventPorts (e : Events) : EventPorts where
  normValid := e.norm.isSome
  normCh := match e.norm with
    | some n => n.ch
    | none => false
  normSample := match e.norm with
    | some n => n.sample
    | none => 0#32
  pairValid := e.pair.isSome
  pairBits := match e.pair with
    | some p => p.bits
    | none => 0#8
  hits := match e.pair with
    | some p => p.hits
    | none => 0#8
  off := match e.pair with
    | some p => p.off
    | none => 0#32

/-- What the host may read: before the first reset the model gives the outputs no value
(spec/70_reset_and_hazards.md R211), after it they are the ports of R41 to R43. -/
def State.visible (s : State) : Option (LevelOutputs × EventPorts) :=
  if s.resetSeen then some (levelOutputs s.regs, eventPorts s.events) else none

end Sys2Proof.Machine
end

