-- ==== Sys2Proof/Machine/Reference.lean ====
section
/-! DEFINITION. What the block is to compute, written from the rules that speak of a whole file and not
of a step: the sample sequence (spec/40_normalizer.md R105, R110), the bit-planes
(spec/41_correlator.md R121, R122), substring search (spec/42_matcher.md R142) and the verdict
(spec/43_driver_commands.md R164, spec/60_exceptions.md R181). The statements compare the block with
these. No step of the machine uses them. -/

namespace Sys2Proof.Machine

/-- The number of bytes of a sample, 2 or 3 (R60). -/
def bytesPerSample (w24 : Bool) : Nat := if w24 then 3 else 2

/-- The canonical samples of a byte buffer, in file order; leftover bytes are discarded. Each is
`lsl(sext_32(r), 32 - N)` of its raw sample r (R105, R110). -/
def samplesOf (w24 : Bool) (bytes : List Byte) : List Word :=
  match w24, bytes with
  | false, d0 :: d1 :: rest => lsl ((raw16 d0 d1).signExtend 32) 16 :: samplesOf false rest
  | true, d0 :: d1 :: d2 :: rest => lsl ((raw24 d0 d1 d2).signExtend 32) 8 :: samplesOf true rest
  | _, _ => []

/-- The pairs of a sample sequence: even indices are left samples, odd ones right (R121). -/
def pairsOf : List Word → List (Word × Word)
  | l :: r :: rest => (l, r) :: pairsOf rest
  | _ => []

/-- Plane 16 + k of a sequence of pairs: element i is `(left[i] ^ right[i]) >> p & 1` (R122, R123). -/
def planeOf (k : Lane) (pairs : List (Word × Word)) : List Bool :=
  pairs.map fun p => (asr (p.1 ^^^ p.2) (Config.planeLo + k)).getLsbD 0

/-- Plane 16 + k of a byte buffer. -/
def filePlane (w24 : Bool) (bytes : List Byte) (k : Lane) : List Bool :=
  planeOf k (pairsOf (samplesOf w24 bytes))

/-- The pattern occurs in the plane with its first bit at index o (R142). -/
def occursAt (plane : List Bool) (o : Nat) : Bool := (plane.drop o).take Config.patLen == pat

/-- The index of the first occurrence, by trying every position (R142). -/
def firstOccurrence (plane : List Bool) : Option Nat := (List.range plane.length).find? (occursAt plane)

/-- The DetectionResult of a file: for each lane, where its plane first matches, if it does
(R144, R171). -/
structure Verdict where
  /-- Some plane contains the pattern (R169). -/
  found : Bool
  /-- For lane k, the offset of the first occurrence in plane 16 + k, `none` if there is none. -/
  first : Vector (Option Nat) 8
deriving DecidableEq, Repr

/-- The document's detection of one file: the descriptor's checks, then samples, pairs, planes and
search; an odd number of samples is UnpairedSample (R159, R185, R186). -/
def detect (channels width : Nat) (bytes : List Byte) : Except ErrCode Verdict :=
  if width ≠ 16 ∧ width ≠ 24 then .error .unsupportedFormat
  else if channels ≠ 2 then .error .invalidChannelLayout
  else
    let w24 := width == 24
    if (samplesOf w24 bytes).length % 2 = 1 then .error .unpairedSample
    else
      let first := Vector.ofFn fun k : Lane => firstOccurrence (filePlane w24 bytes k)
      .ok ⟨first.any Option.isSome, first⟩

/-- The error a code on `err_code` names (R181). -/
def errorNamed (code : BitVec 2) : ErrCode :=
  if code = 1#2 then .unsupportedFormat
  else if code = 2#2 then .invalidChannelLayout
  else if code = 3#2 then .unpairedSample
  else .none

/-- What a host reads off the level outputs: a verdict while `result_valid = 1`, an error while
`state` is ERROR, and otherwise nothing (R217). An offset counts only where `matched_planes` has the
lane's bit (R226). -/
def verdictRead (o : LevelOutputs) : Option (Except ErrCode Verdict) :=
  if o.resultValid then
    some (.ok ⟨o.found, Vector.ofFn fun k : Lane =>
      if o.matchedPlanes[k] then some o.firstOff[k].toNat else none⟩)
  else if o.state = 3#2 then some (.error (errorNamed o.errCode))
  else none

/-- A sequence of accepted commands, each completely before the next (R71). -/
def execAll : List Instr → State → Host.Outcome State Fault Refusal
  | [], s => .next s
  | i :: is, s =>
    match exec i s with
    | .next t => execAll is t
    | .fault r => .fault r
    | .refused r => .refused r

/-- The events that a sequence of commands emits, one entry per command (R44). -/
def eventsOf : List Instr → State → List Events
  | [], _ => []
  | i :: is, s =>
    match exec i s with
    | .next t => t.events :: eventsOf is t
    | .fault _ => []
    | .refused _ => []

/-- The commands accepted at a sequence of edges (R80). -/
def acceptedAt (edges : List PortInput) : List Instr := edges.filterMap PortInput.accepted

end Sys2Proof.Machine
end

