-- ==== Sys2Proof/Safety.lean ====
section
/-! DEFINITION. What counts as a safe state and a safe step, in the terms the statements use:
the invariants of spec/10_state.md R36 and the transition table of spec/43_driver_commands.md R167. -/

namespace Sys2Proof.Machine

/-- The invariants of every state reachable from reset by commands, (a) to (j) of R36. -/
structure Registers.Reachable (r : Registers) : Prop where
  /-- (a) for a 16-bit file. -/
  bidx16 : r.w24 = false → r.bidx.toNat ≤ 1
  /-- (a) for a 24-bit file; with `bidx16`, `BIDX` is never 3. -/
  bidx24 : r.w24 = true → r.bidx.toNat ≤ 2
  /-- (b) -/
  errCodeIffError : r.errCode ≠ .none ↔ r.state = .error
  /-- (c) -/
  idleIsReset : r.state = .idle → r = .reset
  /-- (d) -/
  refusedStartIsReset : r.state = .error →
    (r.errCode = .unsupportedFormat ∨ r.errCode = .invalidChannelLayout) →
    r = { Registers.reset with state := .error, errCode := r.errCode }
  /-- (e) -/
  doneIsWhole : r.state = .done → r.ch = false ∧ r.bidx = 0#2
  /-- (f) -/
  unpairedHasLeft : r.state = .error → r.errCode = .unpairedSample → r.ch = true ∧ r.bidx = 0#2
  /-- (g) -/
  noHitNoFirst : ∀ k : Lane, r.hit[k] = false → r.first[k] = 0#32
  /-- (h) -/
  hitNeedsPairs : r.hit ≠ 0#8 → 36 ≤ r.npairs.toNat
  /-- (i) -/
  overflowIsFull : r.ovf = true → r.npairs = 0xFFFFFFFF#32
  /-- (j) -/
  firstInFile : ∀ k : Lane, r.hit[k] = true → r.ovf = false →
    r.first[k].toNat + 36 ≤ r.npairs.toNat

/-- CLR or START: the commands that discard the previous file (spec/20_memory.md R67). -/
def commandDiscards : Instr → Bool
  | .clr => true
  | .start _ _ => true
  | .data _ => false
  | .endFile => false

/-- An edge that discards the file: reset, or an accepted CLR or START. -/
def PortInput.discards (p : PortInput) : Bool :=
  p.rst || match p.accepted with
    | some i => commandDiscards i
    | none => false

/-- The next `STATE` by the columns of R167's table for the four commands. -/
def nextPhase (r : Registers) : Instr → Phase
  | .clr => .idle
  | .start channels width =>
    if (width = 16 ∨ width = 24) ∧ channels = 2 then .run else .error
  | .data _ => r.state
  | .endFile =>
    match r.state with
    | .run => if r.ch then .error else .done
    | .idle => .idle
    | .done => .done
    | .error => .error

/-- The next `STATE` by the whole of R167's table, reset and no command among its columns. -/
def nextPhaseAt (s : State) : Phase :=
  if s.port.rst then .idle
  else
    match s.port.accepted with
    | some i => nextPhase s.regs i
    | none => s.regs.state

/-- An outcome that is a next state: neither a fault nor a refusal. -/
def completes (o : Host.Outcome State Fault Refusal) : Prop := ∃ t, o = .next t

end Sys2Proof.Machine
end

