-- ==== Sys2Proof/Certificates/Slice0/Obligations.lean ====
section
/-! DEFINITION. The statements for the provers, in the order of spec/: encoding, the port, reset, the
commands CLR, START, DATA and END, the normalizer, the correlator, the matcher, the whole-machine
rules, the invariants, and the whole-file statements. -/

open Sys2Proof Sys2Proof.Machine

/-! ## Encoding (spec/30_encoding.md) -/

/-- R82, R83: every well-formed command is read back from its canonical word, with every operand at
every value its field admits. -/
def Obligations.DecodeOfEncodeIsTheCommand : Prop :=
  ∀ i : Instr, i.wellFormed = true → decode (encode i) = i

/-- R85, R86, R90: every word decodes to a well-formed command, whose canonical word is that word with
its reserved bits 0. -/
def Obligations.EncodeOfDecodeClearsReservedBits : Prop :=
  ∀ w : CommandWord, (decode w).wellFormed = true ∧
    encode (decode w) = w &&& (match decode w with
      | .clr => 0x300000000#34
      | .start _ _ => 0x3FFFFFFFF#34
      | .data _ => 0x3000000FF#34
      | .endFile => 0x300000000#34)

/-- R82, R83, R84: a word is the command of a row exactly when its bits under the mask are the row's
match, and the fields are taken as they stand: `channels = u(cmd[31:16])`, `width = u(cmd[15:0])`,
`byte = cmd[7:0]`. -/
def Obligations.WordIsTheCommandOfItsRow : Prop :=
  ∀ w : CommandWord,
    (w &&& 0x300000000#34 = 0x000000000#34 ↔ decode w = .clr) ∧
    (w &&& 0x300000000#34 = 0x100000000#34 ↔
      decode w = .start (w.toNat / 65536 % 65536) (w.toNat % 65536)) ∧
    (w &&& 0x300000000#34 = 0x200000000#34 ↔ decode w = .data (BitVec.ofNat 8 (w.toNat % 256))) ∧
    (w &&& 0x300000000#34 = 0x300000000#34 ↔ decode w = .endFile)

/-- R86: two words that differ only in reserved bits are the same command with the same effect, and the
canonical encodings have these bits 0. -/
def Obligations.ReservedBitsAreIgnored : Prop :=
  (∀ w v : CommandWord, w &&& 0x300000000#34 = 0x200000000#34 →
    w &&& 0x3000000FF#34 = v &&& 0x3000000FF#34 →
    decode w = decode v ∧ ∀ s : State, step (s.present w) = step (s.present v)) ∧
  (∀ w v : CommandWord,
    (w &&& 0x300000000#34 = 0x000000000#34 ∨ w &&& 0x300000000#34 = 0x300000000#34) →
    w &&& 0x300000000#34 = v &&& 0x300000000#34 →
    decode w = decode v ∧ ∀ s : State, step (s.present w) = step (s.present v)) ∧
  (∀ b : Byte, encode (.data b) &&& 0x0FFFFFF00#34 = 0#34) ∧
  encode .clr &&& 0x0FFFFFFFF#34 = 0#34 ∧ encode .endFile &&& 0x0FFFFFFFF#34 = 0#34

/-- R94 (the spec's own spellings, which it marks as derived from R81 to R84): these words are these
commands. -/
def Obligations.SpelledWordsDecodeAsWritten : Prop :=
  decode 0x000000000#34 = .clr ∧ decode 0x100020010#34 = .start 2 16 ∧
  decode 0x100020018#34 = .start 2 24 ∧ decode 0x2000000AB#34 = .data 0xAB#8 ∧
  decode 0x300000000#34 = .endFile

/-- R91, R92: the DATA commands of `S16 v` and `S24 v` carry the sample's bytes least significant first:
a waiting left sample is `v` aligned to bit 31, and a negative v gives the bytes of `v + 2^16`
or `v + 2^24`. -/
def Obligations.TextSamplesBecomeCanonicalSamples : Prop :=
  (∀ (s : State) (v : Int), inRange16 v = true → s.regs.state = .run → s.regs.w24 = false →
    s.regs.bidx = 0#2 → s.regs.ch = false →
    ∃ t, execAll (HostLine.s16 v).commands s = .next t ∧
      t.regs.left = BitVec.ofInt 32 (v * 65536) ∧ t.regs.ch = true ∧ t.regs.bidx = 0#2) ∧
  (∀ (s : State) (v : Int), inRange24 v = true → s.regs.state = .run → s.regs.w24 = true →
    s.regs.bidx = 0#2 → s.regs.ch = false →
    ∃ t, execAll (HostLine.s24 v).commands s = .next t ∧
      t.regs.left = BitVec.ofInt 32 (v * 256) ∧ t.regs.ch = true ∧ t.regs.bidx = 0#2) ∧
  (∀ v : Int, v < 0 → (HostLine.s16 v).commands = (HostLine.s16 (v + 65536)).commands ∧
    (HostLine.s24 v).commands = (HostLine.s24 (v + 16777216)).commands)

/-- R90, R91, R92, R93: the edges a text stands for present exactly the commands of its lines, in their
order; `IDLE` and `RESET` lines present none. -/
def Obligations.TextPresentsItsCommands : Prop :=
  ∀ lines : List HostLine, (∀ l ∈ lines, l.inRange = true) →
    acceptedAt (hostEdges lines) = lines.flatMap HostLine.commands

/-! ## The command port and reset (spec/30_encoding.md R80, spec/70_reset_and_hazards.md) -/

/-- R80: a command is accepted exactly when `rst = 0` and `cmd_valid = 1`; it is the command that
`cmd[33:0]` decodes to, and the step is that command's on the machine whose port has moved on to the
next edge. Around it the step adds the reset edge and the quiet edge, which after a reset changes no
register (R222), and `cmd_ready` is 1. The list of coming edges and the record of a reset are the model's
own (notes/assumptions/1.md, 3.md); the edges before the first reset stand in
NothingIsClaimedBeforeTheFirstReset. -/
def Obligations.StepRunsTheDecodedCommand : Prop :=
  (∀ s : State, s.resetSeen = true → s.port.rst = false → s.port.cmdValid = true →
    step s = exec (decode s.port.cmd) { s with inputs := s.inputs.tail }) ∧
  (∀ s : State, s.resetSeen = true → s.port.rst = false → s.port.cmdValid = false →
    step s = .next { s with inputs := s.inputs.tail, events := .silent }) ∧
  (∀ s : State, s.port.rst = true →
    step s =
      .next { s with regs := .reset, events := .silent, inputs := s.inputs.tail, resetSeen := true }) ∧
  (∀ s : State, s.cmdReady = true ∧ (levelOutputs s.regs).cmdReady = true)

/-- R210, R212: at an edge with `rst = 1` the state becomes `S0` and the event outputs 0, from whatever
state and whatever `cmd_valid` and `cmd` are, so doing it again changes nothing. The list of coming edges
and the record of a reset are the model's own (notes/assumptions/1.md, 3.md). -/
def Obligations.ResetBeatsACommand : Prop :=
  (∀ (s : State) (valid : Bool) (cmd : CommandWord) (rest : List PortInput),
    step { s with inputs := ⟨true, valid, cmd⟩ :: rest } =
      .next { s with regs := .reset, events := .silent, inputs := rest, resetSeen := true }) ∧
  eventPorts .silent = ⟨false, false, 0#32, false, 0#8, 0#8, 0#32⟩

/-- R50: every register at its reset value, every level output but `cmd_ready` 0, and no event. -/
def Obligations.ResetStateIsS0 : Prop :=
  State.reset.regs.state = .idle ∧ State.reset.regs.errCode = .none ∧
  State.reset.regs.w24 = false ∧ State.reset.regs.bidx = 0#2 ∧
  State.reset.regs.b0 = 0#8 ∧ State.reset.regs.b1 = 0#8 ∧
  State.reset.regs.ch = false ∧ State.reset.regs.left = 0#32 ∧
  (∀ k : Lane, State.reset.regs.win[k] = 0#36) ∧
  State.reset.regs.npairs = 0#32 ∧ State.reset.regs.ovf = false ∧
  State.reset.regs.hit = 0#8 ∧ (∀ k : Lane, State.reset.regs.first[k] = 0#32) ∧
  levelOutputs State.reset.regs =
    ⟨true, 0#2, 0#2, false, false, 0#8, Vector.replicate 8 0#32, 0#32, false⟩ ∧
  eventPorts State.reset.events = ⟨false, false, 0#32, false, 0#8, 0#8, 0#32⟩

/-- R211: before the first reset a command has no meaning, no output but `cmd_ready` has a value, and no
register keeps one: every edge without a reset leaves in the registers and the events the free values of
its own number, so that not even one value per run can be assumed. Presenting a command resets nothing.
That the model says so by a refusal, by `none` and by free values is its own choice
(notes/assumptions/3.md); nothing is said of what the free values are. -/
def Obligations.NothingIsClaimedBeforeTheFirstReset : Prop :=
  ∀ s : State, s.resetSeen = false →
    s.visible = none ∧ s.cmdReady = true ∧
    (s.port.rst = false → s.port.cmdValid = true → step s = .refused .commandBeforeReset) ∧
    (∀ w : CommandWord, step (s.present w) = .refused .commandBeforeReset) ∧
    (s.port.rst = false → s.port.cmdValid = false →
      step s = .next { s with
        inputs := s.inputs.tail
        regs := Config.powerUpRegisters s.draws
        events := Config.powerUpEvents s.draws
        draws := s.draws + 1 }) ∧
    (∀ t, step s = .next t → t.resetSeen = s.port.rst)

/-- R6, R180: after a reset every word has a next state in every state, and the machine stays so; and
the step of every command by itself has a next state, with or without a reset. -/
def Obligations.EveryWordHasANextState : Prop :=
  (∀ s : State, s.resetSeen = true → ∃ t, step s = .next t ∧ t.resetSeen = true) ∧
  (∀ (s : State) (w : CommandWord), s.resetSeen = true → ∃ t, step (s.present w) = .next t) ∧
  (∀ (s : State) (i : Instr), completes (exec i s))

/-- R74, R222 (R74 is the spec's inference from R71 and R222): whatever quiet edges lie between the
commands, the registers after a sequence of edges without reset are those after its accepted commands,
one after the other. -/
def Obligations.QuietEdgesDoNotMatter : Prop :=
  ∀ (s : State) (edges rest : List PortInput), s.resetSeen = true →
    (∀ p ∈ edges, p.rst = false) →
    ∃ t u, Host.Core.run Sys2Proof.core edges.length { s with inputs := edges ++ rest } = .next t ∧
      execAll (acceptedAt edges) s = .next u ∧ t.regs = u.regs ∧ t.inputs = rest ∧
      t.resetSeen = true

/-! ## CLR and START (spec/43_driver_commands.md) -/

/-- R155: after CLR every register is at its value in `S0`, in every state, and no event is emitted. -/
def Obligations.ClrReachesS0 : Prop :=
  ∀ s : State, exec .clr s = .next { s with regs := .reset, events := .silent }

/-- R160: a START with channel_count 2 and width 16 or 24 opens the file, from every state. -/
def Obligations.StartOpensTheFile : Prop :=
  ∀ (s : State) (width : Nat), width = 16 ∨ width = 24 →
    exec (.start 2 width) s =
      .next { s with
        regs := { Registers.reset with state := .run, errCode := .none, w24 := decide (width = 24) }
        events := .silent }

/-- R182, R183: a width that is neither 16 nor 24 gives UnsupportedFormat whatever the channel count;
a good width with a channel_count other than 2 gives InvalidChannelLayout; every other register is
at its reset value. -/
def Obligations.StartRefusesABadDescriptor : Prop :=
  (∀ (s : State) (channels width : Nat), width ≠ 16 → width ≠ 24 →
    exec (.start channels width) s =
      .next { s with
        regs := { Registers.reset with state := .error, errCode := .unsupportedFormat }
        events := .silent }) ∧
  (∀ (s : State) (channels width : Nat), width = 16 ∨ width = 24 → channels ≠ 2 →
    exec (.start channels width) s =
      .next { s with
        regs := { Registers.reset with state := .error, errCode := .invalidChannelLayout }
        events := .silent })

/-- R172, R173 (the spec's inferences from R157): whatever commands came before, a sequence that begins
with START or CLR ends as it would have ended without them. -/
def Obligations.EarlierFilesLeaveNoTrace : Prop :=
  ∀ (s t : State) (before after : List Instr) (i : Instr), commandDiscards i = true →
    execAll before s = .next t → execAll (i :: after) t = execAll (i :: after) s

/-- R158, R216: when the host saturates a descriptor as it must, a file whose true channel count is not
2 or whose true width is not 16 or 24 is refused, however large the numbers are. -/
def Obligations.SaturatedBadDescriptorIsRefused : Prop :=
  ∀ (s : State) (channels width : Nat), s.resetSeen = true →
    (channels ≠ 2 ∨ (width ≠ 16 ∧ width ≠ 24)) →
    ∃ t, step (s.present (encode (hostStart channels width))) = .next t ∧
      t.regs.state = .error ∧
      t.regs.errCode = (if width = 16 ∨ width = 24 then .invalidChannelLayout else .unsupportedFormat)

/-! ## DATA (spec/40_normalizer.md) -/

/-- R101: DATA in IDLE, DONE or ERROR changes no register and emits no event. -/
def Obligations.DataOutsideRunIsIgnored : Prop :=
  ∀ (s : State) (d : Byte), s.regs.state ≠ .run →
    exec (.data d) s = .next { s with events := .silent }

/-- R102, with the condition of R100: a byte that does not complete a sample goes to `B0` when it is the
first and to `B1` otherwise, `BIDX` counts it, nothing else changes and no event is emitted. For the values
of `BIDX` that no run reaches the model follows the text of R100 (notes/assumptions/6.md). -/
def Obligations.DataStoresAnInnerByte : Prop :=
  ∀ (s : State) (d : Byte), s.regs.state = .run →
    ¬ (s.regs.w24 = false ∧ s.regs.bidx = 1#2) → ¬ (s.regs.w24 = true ∧ s.regs.bidx = 2#2) →
    (s.regs.bidx = 0#2 →
      exec (.data d) s =
        .next { s with regs := { s.regs with b0 := d, bidx := 1#2 }, events := .silent }) ∧
    (s.regs.bidx ≠ 0#2 →
      exec (.data d) s =
        .next { s with regs := { s.regs with b1 := d, bidx := s.regs.bidx + 1#2 }, events := .silent })

/-- R100, R103, R104, R108, R109: a byte that completes a left sample puts the canonical sample in
`LEFT`, sets `CH`, clears `BIDX`, and emits `norm(0, c)` and no pair. -/
def Obligations.DataCompletesALeftSample : Prop :=
  (∀ (s : State) (d : Byte), s.regs.state = .run → s.regs.ch = false →
    s.regs.w24 = false → s.regs.bidx = 1#2 →
    exec (.data d) s =
      .next { s with
        regs := { s.regs with bidx := 0#2, left := d ++ s.regs.b0 ++ 0#16, ch := true }
        events := ⟨some ⟨false, d ++ s.regs.b0 ++ 0#16⟩, none⟩ }) ∧
  (∀ (s : State) (d : Byte), s.regs.state = .run → s.regs.ch = false →
    s.regs.w24 = true → s.regs.bidx = 2#2 →
    exec (.data d) s =
      .next { s with
        regs := { s.regs with
          bidx := 0#2, left := d ++ s.regs.b1 ++ s.regs.b0 ++ 0#8, ch := true }
        events := ⟨some ⟨false, d ++ s.regs.b1 ++ s.regs.b0 ++ 0#8⟩, none⟩ })

/-- R120 with R122, R126, R136, R138, R139, R140: a byte that completes a right sample c runs the pair
step on `LEFT` and c. `x` is bits 23:16 of their XOR, `n` the new pair count, `off` the offset, lane k
shifts `x[k]` into its window and matches exactly when `n >= 36` and the window is the pattern; `HIT`
collects the matches, `FIRST[k]` takes the offset of the first; nothing else changes. -/
def Obligations.DataCompletesAPair : Prop :=
  ∀ (s : State) (d : Byte) (c : Word), s.regs.state = .run → s.regs.ch = true →
    ((s.regs.w24 = false ∧ s.regs.bidx = 1#2 ∧ c = d ++ s.regs.b0 ++ 0#16) ∨
     (s.regs.w24 = true ∧ s.regs.bidx = 2#2 ∧ c = d ++ s.regs.b1 ++ s.regs.b0 ++ 0#8)) →
    ∃ (n off : Word) (x m : BitVec 8) (win : Vector Window 8) (first : Vector Word 8),
      n = (if s.regs.npairs = 0xFFFFFFFF#32 then 0xFFFFFFFF#32 else s.regs.npairs + 1#32) ∧
      off = (if 36 ≤ n.toNat then n - 36#32 else 0#32) ∧
      (∀ k : Lane, x[k] = (s.regs.left.getLsbD (16 + k) ^^ c.getLsbD (16 + k))) ∧
      (∀ k : Lane, win[k] = BitVec.ofNat 36 (2 * s.regs.win[k].toNat + x[k].toNat)) ∧
      (∀ k : Lane, m[k] = decide (36 ≤ n.toNat ∧ win[k] = 0xBE0498C88#36)) ∧
      (∀ k : Lane, first[k] =
        if m[k] = true ∧ s.regs.hit[k] = false then off else s.regs.first[k]) ∧
      exec (.data d) s =
        .next { s with
          regs := { s.regs with
            bidx := 0#2, ch := false, npairs := n
            ovf := s.regs.ovf || decide (s.regs.npairs = 0xFFFFFFFF#32)
            win := win, hit := s.regs.hit ||| m, first := first }
          events := ⟨some ⟨true, c⟩, some ⟨x, m, off⟩⟩ }

/-- R105: the canonical sample is the sign-extended raw sample shifted left by 32 - N, and as a number it
is `s(r) * 2^(32-N)`; the raw sample is little-endian (R61). -/
def Obligations.CanonicalSampleIsShiftedSignExtension : Prop :=
  (∀ d0 d1 : Byte,
    canonical16 d0 d1 = lsl ((raw16 d0 d1).signExtend 32) 16 ∧
    canonical16 d0 d1 = raw16 d0 d1 ++ 0#16 ∧
    (canonical16 d0 d1).toInt = (raw16 d0 d1).toInt * 65536 ∧
    (raw16 d0 d1).toNat = d0.toNat + 256 * d1.toNat) ∧
  (∀ d0 d1 d2 : Byte,
    canonical24 d0 d1 d2 = lsl ((raw24 d0 d1 d2).signExtend 32) 8 ∧
    canonical24 d0 d1 d2 = raw24 d0 d1 d2 ++ 0#8 ∧
    (canonical24 d0 d1 d2).toInt = (raw24 d0 d1 d2).toInt * 256 ∧
    (raw24 d0 d1 d2).toNat = d0.toNat + 256 * d1.toNat + 65536 * d2.toNat)

/-- R106, R107 (the spec's inferences from R105): shifting a canonical sample right arithmetically gives
the raw sample's value back, its sign bit is at bit 31, and its low bits are zero. -/
def Obligations.NormalizingRoundTrips : Prop :=
  (∀ d0 d1 : Byte,
    (asr (canonical16 d0 d1) 16).toInt = (raw16 d0 d1).toInt ∧
    (canonical16 d0 d1).msb = (raw16 d0 d1).msb ∧
    (canonical16 d0 d1).extractLsb' 0 16 = 0#16) ∧
  (∀ d0 d1 d2 : Byte,
    (asr (canonical24 d0 d1 d2) 8).toInt = (raw24 d0 d1 d2).toInt ∧
    (canonical24 d0 d1 d2).msb = (raw24 d0 d1 d2).msb ∧
    (canonical24 d0 d1 d2).extractLsb' 0 8 = 0#8)

/-! ## The correlator and the matcher (spec/41_correlator.md, spec/42_matcher.md) -/

/-- R122, R123: bit k of `x` is `((l ^ r) >> p) & 1` for p = 16 + k, the XOR of the two samples' bits at
that position. -/
def Obligations.PlaneBitIsShiftedXor : Prop :=
  ∀ (l r : Word) (k : Lane),
    (planeBits l r)[k] = (asr (l ^^^ r) (16 + k) &&& 1#32 == 1#32) ∧
    (planeBits l r)[k] = (l.getLsbD (16 + k) ^^ r.getLsbD (16 + k))

/-- R125 (the spec's inference from R122 and R106): the planes are the XOR of the low bytes of a 16-bit
pair and of the middle bytes of a 24-bit pair; no other byte has an effect. -/
def Obligations.PlanesReadOneByteOfEachSample : Prop :=
  (∀ l0 l1 r0 r1 : Byte, planeBits (canonical16 l0 l1) (canonical16 r0 r1) = l0 ^^^ r0) ∧
  (∀ l0 l1 l2 r0 r1 r2 : Byte,
    planeBits (canonical24 l0 l1 l2) (canonical24 r0 r1 r2) = l1 ^^^ r1)

/-- R135: the pattern has 36 bits, `pat(j) = MAGIC[35 - j]`, and they are these; the word the windows are
compared with is MAGIC. -/
def Obligations.PatternIsMagicMostSignificantBitFirst : Prop :=
  magic = 0xBE0498C88#36 ∧ matchWord = magic ∧ pat.length = 36 ∧
  (∀ j, j < 36 → pat[j]? = some (magic.getLsbD (35 - j))) ∧
  pat = [true, false, true, true, true, true, true, false, false, false, false, false,
    false, true, false, false, true, false, false, true, true, false, false, false,
    true, true, false, false, true, false, false, false, true, false, false, false]

/-- R137 (the spec's inference from R136 and R157): after n bits, bit j of the window is bit n - 1 - j of
the plane for j < min(n, 36), and 0 above. -/
def Obligations.WindowHoldsTheNewestBits : Prop :=
  ∀ (bits : List Bool) (j : Nat), j < 36 →
    (windowOf bits).getLsbD j =
      if h : j < bits.length then bits[bits.length - 1 - j] else false

/-- R138, R141 (R141 is the spec's inference): a window that has seen n bits equals the pattern exactly
when n >= 36 and the last 36 bits are the pattern; so the test `n >= 36` is redundant for it. -/
def Obligations.WindowMatchesExactlyTheLastBits : Prop :=
  ∀ bits : List Bool,
    windowOf bits = magic ↔ 36 ≤ bits.length ∧ bits.drop (bits.length - 36) = pat

/-- R146 (the spec's inference from R135): two occurrences in one plane start at least 36 positions
apart. -/
def Obligations.OccurrencesDoNotOverlap : Prop :=
  ∀ (plane : List Bool) (o o' : Nat), occursAt plane o = true → occursAt plane o' = true → o < o' →
    o + 36 ≤ o'

/-- R147, R124: lane k of a pair step depends on lane k and the pair count alone, whatever the other
lanes, the samples and the rest of the registers are. -/
def Obligations.LanesAreIndependent : Prop :=
  ∀ (r r' : Registers) (a b a' b' : Word) (k : Lane),
    r.npairs = r'.npairs → r.win[k] = r'.win[k] → r.hit[k] = r'.hit[k] →
    r.first[k] = r'.first[k] → (planeBits a b)[k] = (planeBits a' b')[k] →
    (pairStep a b r).1.win[k] = (pairStep a' b' r').1.win[k] ∧
    (pairStep a b r).1.hit[k] = (pairStep a' b' r').1.hit[k] ∧
    (pairStep a b r).1.first[k] = (pairStep a' b' r').1.first[k] ∧
    (pairStep a b r).2.bits[k] = (pairStep a' b' r').2.bits[k] ∧
    (pairStep a b r).2.hits[k] = (pairStep a' b' r').2.hits[k] ∧
    (pairStep a b r).2.off = (pairStep a' b' r').2.off

/-! ## END and the verdict (spec/43_driver_commands.md) -/

/-- R162, R164: END with no left sample waiting ends the file well, dropping the bytes of an incomplete
sample; everything else is kept. -/
def Obligations.EndFinishesTheFile : Prop :=
  ∀ s : State, s.regs.state = .run → s.regs.ch = false →
    exec .endFile s =
      .next { s with regs := { s.regs with bidx := 0#2, state := .done }, events := .silent }

/-- R163, R185: END with a left sample waiting is UnpairedSample; everything else is kept, and the result
ports read 0. -/
def Obligations.EndOfAnOddFileIsUnpaired : Prop :=
  ∀ s : State, s.regs.state = .run → s.regs.ch = true →
    ∃ t, exec .endFile s = .next t ∧
      t = { s with
        regs := { s.regs with bidx := 0#2, state := .error, errCode := .unpairedSample }
        events := .silent } ∧
      (levelOutputs t.regs).resultValid = false ∧ (levelOutputs t.regs).found = false ∧
      (levelOutputs t.regs).matchedPlanes = 0#8 ∧
      ∀ k : Lane, (levelOutputs t.regs).firstOff[k] = 0#32

/-- R166: END in IDLE, DONE or ERROR changes no register and emits no event. -/
def Obligations.EndOutsideRunIsIgnored : Prop :=
  ∀ s : State, s.regs.state ≠ .run → exec .endFile s = .next { s with events := .silent }

/-- R168, R169, R170, R171: the result ports hold the verdict in DONE and 0 in every other state. -/
def Obligations.ResultPortsShowTheVerdict : Prop :=
  ∀ r : Registers,
    ((levelOutputs r).resultValid = true ↔ r.state = .done) ∧
    ((levelOutputs r).found = true ↔ r.state = .done ∧ r.hit ≠ 0#8) ∧
    (levelOutputs r).matchedPlanes = (if r.state = .done then r.hit else 0#8) ∧
    (∀ k : Lane, (levelOutputs r).firstOff[k] =
      if r.state = .done ∧ r.hit[k] = true then r.first[k] else 0#32) ∧
    (levelOutputs r).npairs = r.npairs ∧ (levelOutputs r).ovf = r.ovf ∧
    (levelOutputs r).state = r.state.code ∧ (levelOutputs r).errCode = r.errCode.code

/-! ## Rules of the whole machine -/

/-- R167 (the spec's inference): `STATE` after every edge is the cell of the transition table, from any
state of a block that has been reset; and the `rst = 1` column holds of any block. -/
def Obligations.StateFollowsTheTransitionTable : Prop :=
  ∀ s t : State, s.resetSeen = true ∨ s.port.rst = true → step s = .next t → t.regs.state = nextPhaseAt s

/-- R87, R189, R191, R217: outside RUN nothing but CLR, START and reset changes a register of a block that
has been reset, so an error keeps its code and a verdict stays on the ports until one of them comes; and
no event is emitted. -/
def Obligations.ClosedFileIsHeldUntilDiscarded : Prop :=
  ∀ s t : State, s.resetSeen = true → step s = .next t → s.regs.state ≠ .run → s.port.discards = false →
    t.regs = s.regs ∧ levelOutputs t.regs = levelOutputs s.regs ∧ t.events = .silent

/-- R23, R31, R32, R33: a set bit of `HIT` and a set `OVF` stay set, and `W24` and the first offset of a
lane that has matched do not change, until CLR, START or reset. R29, R30, R120: without a pair event
`NPAIRS`, `HIT` and the windows do not change. -/
def Obligations.HitsOffsetsAndOverflowAreSticky : Prop :=
  ∀ s t : State, s.resetSeen = true → step s = .next t → s.port.discards = false →
    (∀ k : Lane, s.regs.hit[k] = true →
      t.regs.hit[k] = true ∧ t.regs.first[k] = s.regs.first[k]) ∧
    (s.regs.ovf = true → t.regs.ovf = true) ∧ t.regs.w24 = s.regs.w24 ∧
    (t.events.pair = none → t.regs.npairs = s.regs.npairs ∧ t.regs.hit = s.regs.hit ∧
      t.regs.win = s.regs.win)

/-- R44, R43: only a DATA step in RUN emits, once the block has been reset; a pair event never comes without a sample event, which is
then a right sample's; and the ports show a present event with valid = 1 and an absent one as zeros. -/
def Obligations.OnlyDataInRunEmitsEvents : Prop :=
  (∀ s t : State, s.resetSeen = true → step s = .next t → t.events.norm ≠ none →
    s.regs.state = .run ∧ ∃ b, s.port.accepted = some (.data b)) ∧
  (∀ s t : State, s.resetSeen = true → step s = .next t → t.events.pair ≠ none →
    ∃ c, t.events.norm = some ⟨true, c⟩) ∧
  (∀ n p, eventPorts ⟨some n, some p⟩ = ⟨true, n.ch, n.sample, true, p.bits, p.hits, p.off⟩) ∧
  (∀ n, eventPorts ⟨some n, none⟩ = ⟨true, n.ch, n.sample, false, 0#8, 0#8, 0#32⟩) ∧
  eventPorts ⟨none, none⟩ = ⟨false, false, 0#32, false, 0#8, 0#8, 0#32⟩

/-- R223 (the spec's inference): `norm_valid` is 1 in at most every second cycle and `pair_valid` in at
most every fourth, once the block has been reset. -/
def Obligations.EventStrobesAreSpaced : Prop :=
  (∀ s t u : State, s.resetSeen = true → step s = .next t → step t = .next u → t.events.norm ≠ none →
    u.events.norm = none) ∧
  (∀ s t u v w : State, s.resetSeen = true → step s = .next t → step t = .next u →
    step u = .next v → step v = .next w → t.events.pair ≠ none →
    u.events.pair = none ∧ v.events.pair = none ∧ w.events.pair = none)

/-- R6, R20, R71: the registers and the events after an accepted command depend on the registers before
it and the command alone; the block changes nothing of what the host will drive. -/
def Obligations.CommandsSeeOnlyTheRegisters : Prop :=
  ∀ (i : Instr) (s s' t t' : State), s.regs = s'.regs → exec i s = .next t → exec i s' = .next t' →
    t.regs = t'.regs ∧ t.events = t'.events ∧ t.inputs = s.inputs ∧ t.resetSeen = s.resetSeen ∧
    t.draws = s.draws

/-! ## The invariants of reachable states (spec/10_state.md R36) -/

/-- R36 (the spec's inference): the invariants (a) to (j) hold in the state right after reset. -/
def Obligations.ResetStateIsReachable : Prop := State.reset.regs.Reachable

/-- R36 (the spec's inference): every step of a block that has been reset, from any state at all that
meets the invariants (a) to (j), keeps them, and the block stays one that has been reset. -/
def Obligations.EveryStepKeepsTheInvariants : Prop :=
  ∀ s t : State, s.resetSeen = true ∧ s.regs.Reachable → step s = .next t →
    t.resetSeen = true ∧ t.regs.Reachable

/-- R36, R210: whatever the host drives after a reset, and whatever state the reset finds, the invariants
hold from then on. -/
def Obligations.InvariantsHoldFromTheFirstResetOn : Prop :=
  ∀ (s t : State) (n : Nat), s.port.rst = true →
    Host.Core.run Sys2Proof.core (n + 1) s = .next t → t.regs.Reachable ∧ t.resetSeen = true

/-! ## Whole files: the block against the document's algorithm -/

/-- R29, R30, R60, R110, R126, R137: after START and any bytes, from any state, `BIDX` is the byte index
mod B, `CH` the parity of the samples, `NPAIRS` the pair count saturated, `OVF` says whether it is
lost, and every window holds the newest bits of its plane. -/
def Obligations.RegistersHoldTheFileSoFar : Prop :=
  ∀ (s : State) (w24 : Bool) (bytes : List Byte),
    ∃ t, execAll (.start 2 (if w24 then 24 else 16) :: bytes.map .data) s = .next t ∧
      t.regs.state = .run ∧ t.regs.w24 = w24 ∧
      t.regs.bidx.toNat = bytes.length % bytesPerSample w24 ∧
      t.regs.ch = decide (bytes.length / bytesPerSample w24 % 2 = 1) ∧
      t.regs.npairs.toNat = sat32 (bytes.length / bytesPerSample w24 / 2) ∧
      t.regs.ovf = decide (2 ^ 32 - 1 < bytes.length / bytesPerSample w24 / 2) ∧
      ∀ k : Lane, t.regs.win[k] = windowOf (filePlane w24 bytes k)

/-- R108, R110, R127: the sample events of a file are its canonical samples in file order, left and right
in turn, and the plane bits of its pair events are its eight planes, whole. -/
def Obligations.EventsShowTheWholeFile : Prop :=
  ∀ (s t : State) (w24 : Bool) (bytes : List Byte),
    exec (.start 2 (if w24 then 24 else 16)) s = .next t →
    (eventsOf (bytes.map .data) t).filterMap (fun e => e.norm) =
      (samplesOf w24 bytes).mapIdx (fun j c => ⟨decide (j % 2 = 1), c⟩) ∧
    ∀ k : Lane, ((eventsOf (bytes.map .data) t).filterMap (fun e => e.pair)).map (fun p => p.bits[k]) =
      filePlane w24 bytes k

/-- R142, R143, R127 (R142 is the spec's inference): a file of at most 2^32 - 1 pairs has exactly one pair
event per pair; every occurrence of the pattern, at o, is reported by the pair event of pair o + 35, with
its offset; and the pair event of pair i reports a match in lane k exactly when the pattern occurs in the
plane at i - 35, so nothing else is reported and nothing twice. -/
def Obligations.EveryOccurrenceIsReportedOnce : Prop :=
  ∀ (s t : State) (w24 : Bool) (bytes : List Byte) (k : Lane),
    exec (.start 2 (if w24 then 24 else 16)) s = .next t →
    (filePlane w24 bytes k).length ≤ 2 ^ 32 - 1 →
    ((eventsOf (bytes.map .data) t).filterMap (fun e => e.pair)).length =
      (filePlane w24 bytes k).length ∧
    (∀ o, occursAt (filePlane w24 bytes k) o = true →
      ∃ p, ((eventsOf (bytes.map .data) t).filterMap (fun e => e.pair))[o + 35]? = some p ∧
        p.hits[k] = true ∧ p.off.toNat = o) ∧
    (∀ i, i < (filePlane w24 bytes k).length →
      ∃ p, ((eventsOf (bytes.map .data) t).filterMap (fun e => e.pair))[i]? = some p ∧
        (p.hits[k] = true ↔ 35 ≤ i ∧ occursAt (filePlane w24 bytes k) (i - 35) = true) ∧
        (p.hits[k] = true → p.off.toNat = i - 35))

/-- R142, R164, R168 to R171, R181, R185, R186: for every file of at most 2^32 - 1 pairs, from every
state, START, the bytes and END leave on the ports exactly the document's verdict: the error its
descriptor or its odd sample count deserves, or whether and where each plane first contains the
pattern. -/
def Obligations.BlockComputesTheDocumentsVerdict : Prop :=
  ∀ (s : State) (channels width : Nat) (bytes : List Byte),
    (samplesOf (width == 24) bytes).length / 2 ≤ 2 ^ 32 - 1 →
    ∃ t, execAll (hostFile channels width bytes) s = .next t ∧
      verdictRead (levelOutputs t.regs) = some (detect channels width bytes)

/-- R140, R142, R227: `HIT` is the substring search's answer for a file of any length, also once the
pair count has overflowed. -/
def Obligations.HitIsRightForEveryLength : Prop :=
  ∀ (s : State) (w24 : Bool) (bytes : List Byte) (k : Lane),
    ∃ t, execAll (.start 2 (if w24 then 24 else 16) :: bytes.map .data) s = .next t ∧
      (t.regs.hit[k] = true ↔ ∃ o, occursAt (filePlane w24 bytes k) o = true)

/-- R128 (the spec's inference from R122 and R138): a file whose samples are pairwise equal, its sample
count even, ends in DONE with nothing found. -/
def Obligations.EqualChannelsAreNeverFound : Prop :=
  ∀ (s : State) (w24 : Bool) (bytes : List Byte),
    (∀ p ∈ pairsOf (samplesOf w24 bytes), p.1 = p.2) → (samplesOf w24 bytes).length % 2 = 0 →
    ∃ t, execAll (hostFile 2 (if w24 then 24 else 16) bytes) s = .next t ∧
      t.regs.state = .done ∧ (levelOutputs t.regs).resultValid = true ∧
      (levelOutputs t.regs).found = false ∧ (levelOutputs t.regs).matchedPlanes = 0#8

/-- R145 (the spec's inference from R138): a file of fewer than 36 pairs with an even sample count ends in
DONE with nothing found. -/
def Obligations.ShortFilesAreNotFound : Prop :=
  ∀ (s : State) (w24 : Bool) (bytes : List Byte),
    (samplesOf w24 bytes).length / 2 < 36 → (samplesOf w24 bytes).length % 2 = 0 →
    ∃ t, execAll (hostFile 2 (if w24 then 24 else 16) bytes) s = .next t ∧
      t.regs.state = .done ∧ (levelOutputs t.regs).found = false ∧
      (levelOutputs t.regs).matchedPlanes = 0#8
end

