-- ==== Sys2Proof/Laws/Encoding.lean ====
section
/-! SUPPORT. Command words as numbers (spec/30_encoding.md R81 to R84, R94). -/

namespace Sys2Proof

/-- Concatenation as arithmetic (spec/00_scope.md R7). -/
theorem append_toNat {a b : Nat} (x : BitVec a) (y : BitVec b) :
    (x ++ y).toNat = x.toNat * 2 ^ b + y.toNat := by
  rw [BitVec.toNat_append, Nat.shiftLeft_eq, Nat.mul_comm, ← Nat.two_pow_add_eq_or_of_lt y.isLt,
    Nat.mul_comm]

/-- `op` is the word's number divided by 2^32. -/
theorem op_toNat (w : CommandWord) : (CommandWord.op w).toNat = w.toNat / 2 ^ 32 := by
  have := w.isLt
  simp only [CommandWord.op, BitVec.extractLsb'_toNat, Nat.shiftRight_eq_div_pow]
  omega

/-- The number of START's canonical word: `0x100000000 + c * 65536 + w` (R94). -/
theorem encode_start_toNat {c w : Nat} (hc : c < 65536) (hw : w < 65536) :
    (encode (.start c w)).toNat = 0x100000000 + c * 65536 + w := by
  have outer : (encode (.start c w)).toNat = _ :=
    append_toNat (1#2) (BitVec.ofNat 16 c ++ BitVec.ofNat 16 w)
  have inner := append_toNat (BitVec.ofNat 16 c) (BitVec.ofNat 16 w)
  rw [outer, inner]
  simp [Nat.mod_eq_of_lt hc, Nat.mod_eq_of_lt hw]
  omega

/-- Decoding looks at `op` alone to tell the commands apart (R85). -/
theorem decode_of_op (w : CommandWord) :
    (CommandWord.op w = 0#2 → decode w = .clr) ∧
    (CommandWord.op w = 1#2 → decode w =
      .start ((CommandWord.arg w).extractLsb' 16 16).toNat ((CommandWord.arg w).extractLsb' 0 16).toNat) ∧
    (CommandWord.op w = 2#2 → decode w = .data ((CommandWord.arg w).extractLsb' 0 8)) ∧
    (CommandWord.op w = 3#2 → decode w = .endFile) := by
  refine ⟨fun h => ?_, fun h => ?_, fun h => ?_, fun h => ?_⟩ <;> simp [decode, h]

/-- There are four values of `op` (R85). -/
theorem op_cases (w : CommandWord) : CommandWord.op w = 0#2 ∨ CommandWord.op w = 1#2 ∨
    CommandWord.op w = 2#2 ∨ CommandWord.op w = 3#2 := by
  generalize CommandWord.op w = c
  revert c
  decide

end Sys2Proof
end

