-- ==== Sys2Proof/Laws/Lanes.lean ====
section
/-! SUPPORT. What each lane of a pair step does, one lemma per shared operation, and the window shift as
bits and as a number. -/

namespace Sys2Proof.Machine

/-- Packing the pattern along a window gives MAGIC: R135 lays the most significant bit first. -/
theorem matchWord_eq_magic : matchWord = magic := by
  set_option maxRecDepth 4000 in decide

/-! An index is stated as a number below 8: `Fin.getElem_fin` brings `v[k]` with `k : Lane` to that form. -/

@[simp] theorem shiftWindows_getElem (win : Vector Window 8) (x : BitVec 8) (k : Nat) (h : k < 8) :
    (shiftWindows win x)[k] = shiftIn win[k] x[k] := by
  simp [shiftWindows]

@[simp] theorem matchBits_getElem (n : Word) (win : Vector Window 8) (k : Nat) (h : k < 8) :
    (matchBits n win)[k] = (windowFull n && win[k] == matchWord) := by
  simp [matchBits, BitVec.getElem_ofFnLE]

@[simp] theorem nextHit_getElem (hit m : BitVec 8) (k : Nat) (h : k < 8) :
    (nextHit hit m)[k] = (hit[k] || m[k]) := by
  simp [nextHit]

@[simp] theorem nextFirst_getElem (first : Vector Word 8) (hit m : BitVec 8) (off : Word) (k : Nat)
    (h : k < 8) :
    (nextFirst first hit m off)[k] = if m[k] && !hit[k] then off else first[k] := by
  simp [nextFirst]

@[simp] theorem planeBits_getElem (l r : Word) (k : Nat) (h : k < 8) :
    (planeBits l r)[k] = (l.getLsbD (16 + k) ^^ r.getLsbD (16 + k)) := by
  simp [planeBits, BitVec.getElem_extractLsb']

/-- The new bit enters at bit 0 and the others move up by one (R136). -/
theorem shiftIn_getLsbD (w : Window) (b : Bool) (j : Nat) :
    (shiftIn w b).getLsbD j = if j = 0 then b else decide (j < 36) && w.getLsbD (j - 1) := by
  unfold shiftIn
  rw [BitVec.getLsbD_append]
  cases j with
  | zero => simp
  | succ j =>
    have : decide (j < 35) = decide (j + 1 < 36) := by simp; omega
    simp [BitVec.getLsbD_extractLsb', this]

/-- The window shift as arithmetic modulo 2^36. -/
theorem shiftIn_eq_ofNat (w : Window) (b : Bool) :
    shiftIn w b = BitVec.ofNat 36 (2 * w.toNat + b.toNat) := by
  apply BitVec.eq_of_toNat_eq
  simp only [shiftIn, BitVec.toNat_append, BitVec.extractLsb'_toNat, BitVec.toNat_ofBool,
    BitVec.toNat_ofNat, Nat.shiftRight_zero]
  have hb : b.toNat < 2 ^ 1 := by cases b <;> decide
  rw [Nat.shiftLeft_eq, Nat.mul_comm, ← Nat.two_pow_add_eq_or_of_lt hb]
  omega

@[simp] theorem windowOf_nil : windowOf [] = 0#36 := rfl

@[simp] theorem windowOf_concat (bits : List Bool) (b : Bool) :
    windowOf (bits ++ [b]) = shiftIn (windowOf bits) b := by
  simp [windowOf]

/-- What a pair step leaves unchanged, and what it writes (R120). -/
theorem pairStep_regs (l r : Word) (s : Registers) :
    (pairStep l r s).1 =
      { s with
        npairs := nextCount s.npairs
        ovf := nextOverflow s.npairs s.ovf
        win := shiftWindows s.win (planeBits l r)
        hit := nextHit s.hit (pairStep l r s).2.hits
        first := nextFirst s.first s.hit (pairStep l r s).2.hits (pairStep l r s).2.off } := rfl

/-- What a pair step emits (R120, R127). -/
theorem pairStep_event (l r : Word) (s : Registers) :
    (pairStep l r s).2 =
      ⟨planeBits l r,
        matchBits (nextCount s.npairs) (shiftWindows s.win (planeBits l r)),
        matchOffset (nextCount s.npairs)⟩ := rfl

/-- The count saturates (R126). -/
theorem nextCount_toNat (n : Word) : (nextCount n).toNat = sat32 (n.toNat + 1) := by
  unfold nextCount sat32
  have := n.isLt
  split
  · subst_vars; decide
  · rename_i h
    have h' : n.toNat ≠ 4294967295 := fun e => h (BitVec.eq_of_toNat_eq (by simpa using e))
    simp only [BitVec.toNat_add, BitVec.toNat_ofNat]
    omega

/-- The offset never goes below 0 (R111, R139). -/
theorem matchOffset_toNat (n : Word) : (matchOffset n).toNat = n.toNat - 36 := by
  unfold matchOffset windowFull
  have := n.isLt
  by_cases h : 36 ≤ n.toNat
  · simp [h, Config.patLen, BitVec.toNat_sub]; omega
  · simp [h, Config.patLen]; omega

end Sys2Proof.Machine
end

