-- ==== Sys2Proof/Laws/State.lean ====
section
/-! SUPPORT. One lemma per field for every named update of the registers and of the state, each true by
definition, so that no proof unfolds a record update. -/

namespace Sys2Proof.Machine

@[simp] theorem Registers.raise_state (r : Registers) (code : ErrCode) : (r.raise code).state = .error := rfl
@[simp] theorem Registers.raise_errCode (r : Registers) (code : ErrCode) : (r.raise code).errCode = code := rfl
@[simp] theorem Registers.raise_w24 (r : Registers) (code : ErrCode) : (r.raise code).w24 = r.w24 := rfl
@[simp] theorem Registers.raise_bidx (r : Registers) (code : ErrCode) : (r.raise code).bidx = r.bidx := rfl
@[simp] theorem Registers.raise_b0 (r : Registers) (code : ErrCode) : (r.raise code).b0 = r.b0 := rfl
@[simp] theorem Registers.raise_b1 (r : Registers) (code : ErrCode) : (r.raise code).b1 = r.b1 := rfl
@[simp] theorem Registers.raise_ch (r : Registers) (code : ErrCode) : (r.raise code).ch = r.ch := rfl
@[simp] theorem Registers.raise_left (r : Registers) (code : ErrCode) : (r.raise code).left = r.left := rfl
@[simp] theorem Registers.raise_win (r : Registers) (code : ErrCode) : (r.raise code).win = r.win := rfl
@[simp] theorem Registers.raise_npairs (r : Registers) (code : ErrCode) : (r.raise code).npairs = r.npairs := rfl
@[simp] theorem Registers.raise_ovf (r : Registers) (code : ErrCode) : (r.raise code).ovf = r.ovf := rfl
@[simp] theorem Registers.raise_hit (r : Registers) (code : ErrCode) : (r.raise code).hit = r.hit := rfl
@[simp] theorem Registers.raise_first (r : Registers) (code : ErrCode) : (r.raise code).first = r.first := rfl

@[simp] theorem Registers.openFile_state (r : Registers) (w24 : Bool) : (r.openFile w24).state = .run := rfl
@[simp] theorem Registers.openFile_errCode (r : Registers) (w24 : Bool) : (r.openFile w24).errCode = .none := rfl
@[simp] theorem Registers.openFile_w24 (r : Registers) (w24 : Bool) : (r.openFile w24).w24 = w24 := rfl
@[simp] theorem Registers.openFile_bidx (r : Registers) (w24 : Bool) : (r.openFile w24).bidx = r.bidx := rfl
@[simp] theorem Registers.openFile_b0 (r : Registers) (w24 : Bool) : (r.openFile w24).b0 = r.b0 := rfl
@[simp] theorem Registers.openFile_b1 (r : Registers) (w24 : Bool) : (r.openFile w24).b1 = r.b1 := rfl
@[simp] theorem Registers.openFile_ch (r : Registers) (w24 : Bool) : (r.openFile w24).ch = r.ch := rfl
@[simp] theorem Registers.openFile_left (r : Registers) (w24 : Bool) : (r.openFile w24).left = r.left := rfl
@[simp] theorem Registers.openFile_win (r : Registers) (w24 : Bool) : (r.openFile w24).win = r.win := rfl
@[simp] theorem Registers.openFile_npairs (r : Registers) (w24 : Bool) : (r.openFile w24).npairs = r.npairs := rfl
@[simp] theorem Registers.openFile_ovf (r : Registers) (w24 : Bool) : (r.openFile w24).ovf = r.ovf := rfl
@[simp] theorem Registers.openFile_hit (r : Registers) (w24 : Bool) : (r.openFile w24).hit = r.hit := rfl
@[simp] theorem Registers.openFile_first (r : Registers) (w24 : Bool) : (r.openFile w24).first = r.first := rfl

@[simp] theorem Registers.dropPartial_state (r : Registers) : (r.dropPartial).state = r.state := rfl
@[simp] theorem Registers.dropPartial_errCode (r : Registers) : (r.dropPartial).errCode = r.errCode := rfl
@[simp] theorem Registers.dropPartial_w24 (r : Registers) : (r.dropPartial).w24 = r.w24 := rfl
@[simp] theorem Registers.dropPartial_bidx (r : Registers) : (r.dropPartial).bidx = 0#2 := rfl
@[simp] theorem Registers.dropPartial_b0 (r : Registers) : (r.dropPartial).b0 = r.b0 := rfl
@[simp] theorem Registers.dropPartial_b1 (r : Registers) : (r.dropPartial).b1 = r.b1 := rfl
@[simp] theorem Registers.dropPartial_ch (r : Registers) : (r.dropPartial).ch = r.ch := rfl
@[simp] theorem Registers.dropPartial_left (r : Registers) : (r.dropPartial).left = r.left := rfl
@[simp] theorem Registers.dropPartial_win (r : Registers) : (r.dropPartial).win = r.win := rfl
@[simp] theorem Registers.dropPartial_npairs (r : Registers) : (r.dropPartial).npairs = r.npairs := rfl
@[simp] theorem Registers.dropPartial_ovf (r : Registers) : (r.dropPartial).ovf = r.ovf := rfl
@[simp] theorem Registers.dropPartial_hit (r : Registers) : (r.dropPartial).hit = r.hit := rfl
@[simp] theorem Registers.dropPartial_first (r : Registers) : (r.dropPartial).first = r.first := rfl

@[simp] theorem Registers.finish_state (r : Registers) : (r.finish).state = .done := rfl
@[simp] theorem Registers.finish_errCode (r : Registers) : (r.finish).errCode = r.errCode := rfl
@[simp] theorem Registers.finish_w24 (r : Registers) : (r.finish).w24 = r.w24 := rfl
@[simp] theorem Registers.finish_bidx (r : Registers) : (r.finish).bidx = r.bidx := rfl
@[simp] theorem Registers.finish_b0 (r : Registers) : (r.finish).b0 = r.b0 := rfl
@[simp] theorem Registers.finish_b1 (r : Registers) : (r.finish).b1 = r.b1 := rfl
@[simp] theorem Registers.finish_ch (r : Registers) : (r.finish).ch = r.ch := rfl
@[simp] theorem Registers.finish_left (r : Registers) : (r.finish).left = r.left := rfl
@[simp] theorem Registers.finish_win (r : Registers) : (r.finish).win = r.win := rfl
@[simp] theorem Registers.finish_npairs (r : Registers) : (r.finish).npairs = r.npairs := rfl
@[simp] theorem Registers.finish_ovf (r : Registers) : (r.finish).ovf = r.ovf := rfl
@[simp] theorem Registers.finish_hit (r : Registers) : (r.finish).hit = r.hit := rfl
@[simp] theorem Registers.finish_first (r : Registers) : (r.finish).first = r.first := rfl

@[simp] theorem Registers.clear_eq (r : Registers) : r.clear = .reset := rfl

@[simp] theorem Registers.reset_state : Registers.reset.state = .idle := rfl
@[simp] theorem Registers.reset_errCode : Registers.reset.errCode = .none := rfl
@[simp] theorem Registers.reset_w24 : Registers.reset.w24 = false := rfl
@[simp] theorem Registers.reset_bidx : Registers.reset.bidx = 0#2 := rfl
@[simp] theorem Registers.reset_b0 : Registers.reset.b0 = 0#8 := rfl
@[simp] theorem Registers.reset_b1 : Registers.reset.b1 = 0#8 := rfl
@[simp] theorem Registers.reset_ch : Registers.reset.ch = false := rfl
@[simp] theorem Registers.reset_left : Registers.reset.left = 0#32 := rfl
@[simp] theorem Registers.reset_win : Registers.reset.win = Vector.replicate 8 0#36 := rfl
@[simp] theorem Registers.reset_npairs : Registers.reset.npairs = 0#32 := rfl
@[simp] theorem Registers.reset_ovf : Registers.reset.ovf = false := rfl
@[simp] theorem Registers.reset_hit : Registers.reset.hit = 0#8 := rfl
@[simp] theorem Registers.reset_first : Registers.reset.first = Vector.replicate 8 0#32 := rfl

@[simp] theorem State.commit_regs (s : State) (p : Registers × Events) : (s.commit p).regs = p.1 := rfl
@[simp] theorem State.commit_events (s : State) (p : Registers × Events) : (s.commit p).events = p.2 := rfl
@[simp] theorem State.commit_inputs (s : State) (p : Registers × Events) : (s.commit p).inputs = s.inputs := rfl
@[simp] theorem State.commit_resetSeen (s : State) (p : Registers × Events) : (s.commit p).resetSeen = s.resetSeen := rfl
@[simp] theorem State.commit_draws (s : State) (p : Registers × Events) : (s.commit p).draws = s.draws := rfl

@[simp] theorem State.afterReset_regs (s : State) : (s.afterReset).regs = .reset := rfl
@[simp] theorem State.afterReset_events (s : State) : (s.afterReset).events = .silent := rfl
@[simp] theorem State.afterReset_inputs (s : State) : (s.afterReset).inputs = s.inputs := rfl
@[simp] theorem State.afterReset_resetSeen (s : State) : (s.afterReset).resetSeen = true := rfl
@[simp] theorem State.afterReset_draws (s : State) : (s.afterReset).draws = s.draws := rfl

@[simp] theorem State.afterIdle_regs (s : State) : (s.afterIdle).regs = s.regs := rfl
@[simp] theorem State.afterIdle_events (s : State) : (s.afterIdle).events = .silent := rfl
@[simp] theorem State.afterIdle_inputs (s : State) : (s.afterIdle).inputs = s.inputs := rfl
@[simp] theorem State.afterIdle_resetSeen (s : State) : (s.afterIdle).resetSeen = s.resetSeen := rfl
@[simp] theorem State.afterIdle_draws (s : State) : (s.afterIdle).draws = s.draws := rfl

@[simp] theorem State.afterUnreset_regs (s : State) : (s.afterUnreset).regs = Config.powerUpRegisters s.draws := rfl
@[simp] theorem State.afterUnreset_events (s : State) : (s.afterUnreset).events = Config.powerUpEvents s.draws := rfl
@[simp] theorem State.afterUnreset_inputs (s : State) : (s.afterUnreset).inputs = s.inputs := rfl
@[simp] theorem State.afterUnreset_resetSeen (s : State) : (s.afterUnreset).resetSeen = s.resetSeen := rfl
@[simp] theorem State.afterUnreset_draws (s : State) : (s.afterUnreset).draws = s.draws + 1 := rfl

@[simp] theorem State.popPort_regs (s : State) : (s.popPort).regs = s.regs := rfl
@[simp] theorem State.popPort_events (s : State) : (s.popPort).events = s.events := rfl
@[simp] theorem State.popPort_inputs (s : State) : (s.popPort).inputs = s.inputs.tail := rfl
@[simp] theorem State.popPort_resetSeen (s : State) : (s.popPort).resetSeen = s.resetSeen := rfl
@[simp] theorem State.popPort_draws (s : State) : (s.popPort).draws = s.draws := rfl

@[simp] theorem State.present_regs (s : State) (w : CommandWord) : (s.present w).regs = s.regs := rfl
@[simp] theorem State.present_events (s : State) (w : CommandWord) : (s.present w).events = s.events := rfl
@[simp] theorem State.present_inputs (s : State) (w : CommandWord) : (s.present w).inputs = ⟨false, true, w⟩ :: s.inputs := rfl
@[simp] theorem State.present_resetSeen (s : State) (w : CommandWord) : (s.present w).resetSeen = s.resetSeen := rfl
@[simp] theorem State.present_draws (s : State) (w : CommandWord) : (s.present w).draws = s.draws := rfl

@[simp] theorem State.present_port (s : State) (w : CommandWord) : (s.present w).port = ⟨false, true, w⟩ := rfl
@[simp] theorem Events.silent_norm : Events.silent.norm = none := rfl
@[simp] theorem Events.silent_pair : Events.silent.pair = none := rfl

end Sys2Proof.Machine
end

