-- ==== Sys2Proof/Laws/Exec.lean ====
section
/-! SUPPORT. Every command's step in one form, and everything DATA can do in one lemma. -/

namespace Sys2Proof.Machine

/-- What a command does to the registers and what it emits, the pair of spec/00_scope.md R6. -/
def commandStep : Instr → Registers → Registers × Events
  | .clr, r => clrStep r
  | .start channels width, r => startStep channels width r
  | .data d, r => dataStep d r
  | .endFile, r => endStep r

/-- Executing a command commits its step, and nothing else. -/
theorem exec_eq_commit (i : Instr) (s : State) : exec i s = .next (s.commit (commandStep i s.regs)) := by
  cases i <;> rfl

/-- The same, read backwards: if a command answers a next state, it is the commit of its step. -/
theorem exec_next_iff (i : Instr) (s t : State) :
    exec i s = .next t ↔ t = s.commit (commandStep i s.regs) := by
  rw [exec_eq_commit]
  constructor
  · intro h; injection h with h; exact h.symm
  · rintro rfl; rfl

/-- The two ways a byte completes a sample (R100). -/
theorem lastByte_iff (w24 : Bool) (bidx : BitVec 2) :
    lastByte w24 bidx = true ↔ (w24 = false ∧ bidx = 1#2) ∨ (w24 = true ∧ bidx = 2#2) := by
  revert w24 bidx; decide

/-- Everything DATA can do: nothing (R101), store a byte (R102), complete a left sample or complete a
pair (R109). -/
theorem dataStep_cases (d : Byte) (r : Registers) :
    (r.state ≠ .run ∧ dataStep d r = (r, .silent)) ∨
    (r.state = .run ∧ lastByte r.w24 r.bidx = false ∧ dataStep d r = (r.storeByte d, .silent)) ∨
    (r.state = .run ∧ lastByte r.w24 r.bidx = true ∧ r.ch = false ∧
      dataStep d r =
        ({ r with bidx := 0#2, left := completedSample r d, ch := true },
         ⟨some ⟨false, completedSample r d⟩, none⟩)) ∨
    (r.state = .run ∧ lastByte r.w24 r.bidx = true ∧ r.ch = true ∧
      dataStep d r =
        ((pairStep r.left (completedSample r d) { r with bidx := 0#2, ch := false }).1,
         ⟨some ⟨true, completedSample r d⟩,
          some (pairStep r.left (completedSample r d) { r with bidx := 0#2, ch := false }).2⟩)) := by
  by_cases hs : r.state = .run
  · cases hl : lastByte r.w24 r.bidx
    · exact .inr (.inl ⟨hs, rfl, by simp [dataStep, hs, hl]⟩)
    · cases hc : r.ch
      · exact .inr (.inr (.inl ⟨hs, rfl, rfl, by simp [dataStep, hs, hl, takeSample, hc]⟩))
      · exact .inr (.inr (.inr ⟨hs, rfl, rfl, by simp [dataStep, hs, hl, takeSample, hc]⟩))
  · exact .inl ⟨hs, by simp [dataStep, hs]⟩

/-- Storing a byte touches `B0`, `B1` and `BIDX` only (R102). -/
theorem Registers.storeByte_frame (r : Registers) (d : Byte) :
    r.storeByte d = { r with
      b0 := (r.storeByte d).b0, b1 := (r.storeByte d).b1, bidx := r.bidx + 1#2 } := by
  unfold Registers.storeByte
  split <;> rfl

/-- The three outcomes of START (R159, R160). -/
theorem startStep_cases (channels width : Nat) (r : Registers) :
    (width ≠ 16 ∧ width ≠ 24 ∧
      startStep channels width r = (Registers.reset.raise .unsupportedFormat, .silent)) ∨
    ((width = 16 ∨ width = 24) ∧ channels ≠ 2 ∧
      startStep channels width r = (Registers.reset.raise .invalidChannelLayout, .silent)) ∨
    ((width = 16 ∨ width = 24) ∧ channels = 2 ∧
      startStep channels width r = (Registers.reset.openFile (width == 24), .silent)) := by
  by_cases h16 : width = 16
  · by_cases hc : channels = 2 <;>
      simp [startStep, descriptorError, widthSupported, channelsSupported, widthFlag, Config.width24, h16, hc]
  · by_cases h24 : width = 24
    · by_cases hc : channels = 2 <;>
        simp [startStep, descriptorError, widthSupported, channelsSupported, widthFlag, h24, hc]
    · simp [startStep, descriptorError, widthSupported, h16, h24]

/-- The three outcomes of END (R161). -/
theorem endStep_cases (r : Registers) :
    (r.state ≠ .run ∧ endStep r = (r, .silent)) ∨
    (r.state = .run ∧ r.ch = true ∧ endStep r = (r.dropPartial.raise .unpairedSample, .silent)) ∨
    (r.state = .run ∧ r.ch = false ∧ endStep r = (r.dropPartial.finish, .silent)) := by
  by_cases hs : r.state = .run
  · cases hc : r.ch
    · exact .inr (.inr ⟨hs, rfl, by simp [endStep, hs, hc]⟩)
    · exact .inr (.inl ⟨hs, rfl, by simp [endStep, hs, hc]⟩)
  · exact .inl ⟨hs, by simp [endStep, hs]⟩

end Sys2Proof.Machine
end

