-- ==== Sys2Proof/Laws/Files.lean ====
section
/-! SUPPORT. Sequences of commands, cut in two, and occurrences of the pattern bit by bit
(spec/20_memory.md R71, spec/42_matcher.md R142). -/

namespace Sys2Proof.Machine

/-- Running one sequence after another. -/
theorem execAll_append (a b : List Instr) (s : State) :
    execAll (a ++ b) s =
      match execAll a s with
      | .next t => execAll b t
      | .fault r => .fault r
      | .refused r => .refused r := by
  induction a generalizing s with
  | nil => rfl
  | cons i is ih => simp only [List.cons_append, execAll, exec_eq_commit]; exact ih _

/-- The events of one sequence after another. -/
theorem eventsOf_append (a b : List Instr) (s t : State) (h : execAll a s = .next t) :
    eventsOf (a ++ b) s = eventsOf a s ++ eventsOf b t := by
  induction a generalizing s with
  | nil => cases h; rfl
  | cons i is ih =>
    simp only [execAll, exec_eq_commit] at h
    simp only [List.cons_append, eventsOf, exec_eq_commit, ih _ h]

/-- Every sequence of commands answers a next state, and the host's list is not touched. -/
theorem execAll_next (is : List Instr) (s : State) :
    ∃ t, execAll is s = .next t ∧ t.inputs = s.inputs ∧ t.resetSeen = s.resetSeen ∧
      t.draws = s.draws := by
  induction is generalizing s with
  | nil => exact ⟨s, rfl, rfl, rfl, rfl⟩
  | cons i is ih =>
    obtain ⟨t, h, hi, hr⟩ := ih (s.commit (commandStep i s.regs))
    exact ⟨t, by simp only [execAll, exec_eq_commit]; exact h, hi, hr⟩

theorem pat_length : pat.length = 36 := rfl

/-- An occurrence, bit by bit. -/
theorem occursAt_iff (plane : List Bool) (o : Nat) :
    occursAt plane o = true ↔ ∀ j, j < 36 → plane[o + j]? = pat[j]? := by
  simp only [occursAt, beq_iff_eq, Config.patLen]
  constructor
  · intro h j hj
    rw [← h]
    simp [hj]
  · intro h
    apply List.ext_getElem?
    intro j
    by_cases hj : j < 36
    · simp [hj, h]
    · rw [List.getElem?_eq_none (by simp; omega),
        List.getElem?_eq_none (by rw [pat_length]; omega)]

end Sys2Proof.Machine
end

