-- ==== Sys2Proof/Laws/PerInstr.lean ====
section
/-! SUPPORT. Facts about a command as syntax, one lemma per constructor. -/

namespace Sys2Proof.Laws

/-- The word written for a command has its row's fixed bits (spec/30_encoding.md R84). -/
def EncodesInItsRow.Statement (i : Instr) : Prop := encode i &&& i.row.mask = i.row.value

theorem EncodesInItsRow.clr : EncodesInItsRow.Statement .clr := by
  unfold EncodesInItsRow.Statement; decide

theorem EncodesInItsRow.start (channels width : Nat) :
    EncodesInItsRow.Statement (.start channels width) := by
  unfold EncodesInItsRow.Statement
  apply BitVec.eq_of_getLsbD_eq
  intro j hj
  simp only [encode, Instr.row, BitVec.getLsbD_and, BitVec.getLsbD_append]
  have : j < 32 ∨ j = 32 ∨ j = 33 := by omega
  rcases this with h | rfl | rfl
  · have hm : (0x300000000#34).getLsbD j = false := by revert h; revert j; decide
    have hv : (0x100000000#34).getLsbD j = false := by revert h; revert j; decide
    simp [hm, hv]
  · rw [if_neg (by decide)]; decide
  · rw [if_neg (by decide)]; decide

theorem EncodesInItsRow.data (byte : Byte) : EncodesInItsRow.Statement (.data byte) := by
  unfold EncodesInItsRow.Statement; revert byte; decide

theorem EncodesInItsRow.endFile : EncodesInItsRow.Statement .endFile := by
  unfold EncodesInItsRow.Statement; decide

end Sys2Proof.Laws
end

