-- ==== Sys2Proof/Laws/Samples.lean ====
section
/-! SUPPORT. Canonical samples as numbers and bit by bit (spec/40_normalizer.md R103 to R106). -/

namespace Sys2Proof.Machine

theorem canonical16_toNat (d0 d1 : Byte) :
    (canonical16 d0 d1).toNat = (raw16 d0 d1).toNat * 65536 := by
  have h : (canonical16 d0 d1).toNat = _ := append_toNat (raw16 d0 d1) 0#16
  rw [h]; simp

theorem canonical24_toNat (d0 d1 d2 : Byte) :
    (canonical24 d0 d1 d2).toNat = (raw24 d0 d1 d2).toNat * 256 := by
  have h : (canonical24 d0 d1 d2).toNat = _ := append_toNat (raw24 d0 d1 d2) 0#8
  rw [h]; simp

/-- Bit j of a 16-bit raw sample is bit j + 16 of its canonical sample (R106). -/
theorem canonical16_getLsbD (d0 d1 : Byte) (j : Nat) :
    (canonical16 d0 d1).getLsbD j = (decide (16 ≤ j) && (raw16 d0 d1).getLsbD (j - 16)) := by
  have h : (canonical16 d0 d1).getLsbD j = _ :=
    BitVec.getLsbD_append (x := raw16 d0 d1) (y := 0#16)
  rw [h]
  by_cases hj : j < 16
  · simp [hj]
  · simp [hj]; omega

/-- Bit j of a 24-bit raw sample is bit j + 8 of its canonical sample (R106). -/
theorem canonical24_getLsbD (d0 d1 d2 : Byte) (j : Nat) :
    (canonical24 d0 d1 d2).getLsbD j = (decide (8 ≤ j) && (raw24 d0 d1 d2).getLsbD (j - 8)) := by
  have h : (canonical24 d0 d1 d2).getLsbD j = _ :=
    BitVec.getLsbD_append (x := raw24 d0 d1 d2) (y := 0#8)
  rw [h]
  by_cases hj : j < 8
  · simp [hj]
  · simp [hj]; omega

/-- The first byte is the low one (R61). -/
theorem raw16_getLsbD (d0 d1 : Byte) (j : Nat) :
    (raw16 d0 d1).getLsbD j = if j < 8 then d0.getLsbD j else d1.getLsbD (j - 8) :=
  BitVec.getLsbD_append

/-- The first byte is the low one (R61). -/
theorem raw24_getLsbD (d0 d1 d2 : Byte) (j : Nat) :
    (raw24 d0 d1 d2).getLsbD j =
      if j < 16 then (if j < 8 then d0.getLsbD j else d1.getLsbD (j - 8)) else d2.getLsbD (j - 16) := by
  have h : (raw24 d0 d1 d2).getLsbD j = _ := BitVec.getLsbD_append (x := d2) (y := d1 ++ d0)
  rw [h, BitVec.getLsbD_append]

/-- The three bytes of a 24-bit sample may be grouped either way. -/
theorem raw24_eq (d0 d1 d2 : Byte) : raw24 d0 d1 d2 = d2 ++ d1 ++ d0 := by
  unfold raw24
  rw [BitVec.append_assoc]
  rfl

end Sys2Proof.Machine
end

