-- ==== Sys2Proof/Laws/Step.lean ====
section
/-! SUPPORT. Everything one step of the machine can do. -/

namespace Sys2Proof.Machine

/-- If a step answers a next state, the edge was a reset, an accepted command after a reset, quiet after a
reset, or quiet before the first one; and this is the next state. -/
theorem step_next_cases {s t : State} (h : step s = .next t) :
    (s.port.rst = true ∧ t = s.popPort.afterReset) ∨
    (∃ i, s.port.rst = false ∧ s.port.accepted = some i ∧ s.resetSeen = true ∧
      t = s.popPort.commit (commandStep i s.regs)) ∨
    (s.port.rst = false ∧ s.port.accepted = none ∧ s.resetSeen = true ∧ t = s.popPort.afterIdle) ∨
    (s.port.rst = false ∧ s.port.accepted = none ∧ s.resetSeen = false ∧ t = s.popPort.afterUnreset) := by
  unfold step clockEdge at h
  split at h
  · rename_i hr
    injection h with h
    exact .inl ⟨hr, h.symm⟩
  · rename_i hr
    have hr' : s.port.rst = false := by simpa using hr
    split at h
    · rename_i i hi
      unfold State.accept at h
      split at h
      · rename_i hp
        exact .inr (.inl ⟨i, hr', hi, hp, (exec_next_iff i _ t).1 h⟩)
      · cases h
    · rename_i hi
      injection h with h
      subst h
      cases hp : s.resetSeen
      · exact .inr (.inr (.inr ⟨hr', hi, rfl, by simp [State.quietEdge, hp]⟩))
      · exact .inr (.inr (.inl ⟨hr', hi, rfl, by simp [State.quietEdge, hp]⟩))

/-- Once a reset has been seen, the case before the first reset is gone. -/
theorem step_next_cases_of_reset {s t : State} (hs : s.resetSeen = true) (h : step s = .next t) :
    (s.port.rst = true ∧ t = s.popPort.afterReset) ∨
    (∃ i, s.port.rst = false ∧ s.port.accepted = some i ∧
      t = s.popPort.commit (commandStep i s.regs)) ∨
    (s.port.rst = false ∧ s.port.accepted = none ∧ t = s.popPort.afterIdle) := by
  obtain h | ⟨i, h1, h2, -, h3⟩ | ⟨h1, h2, -, h3⟩ | ⟨-, -, h, -⟩ := step_next_cases h
  · exact .inl h
  · exact .inr (.inl ⟨i, h1, h2, h3⟩)
  · exact .inr (.inr ⟨h1, h2, h3⟩)
  · rw [hs] at h; cases h

/-- A step never forgets that a reset was seen. -/
theorem step_keeps_resetSeen {s t : State} (hs : s.resetSeen = true) (h : step s = .next t) :
    t.resetSeen = true := by
  obtain ⟨-, rfl⟩ | ⟨i, -, -, rfl⟩ | ⟨-, -, rfl⟩ := step_next_cases_of_reset hs h <;> simp [hs]

/-- A run whose first step answers a next state goes on from there. -/
theorem core_run_next {n : Nat} {s t : State} (h : step s = .next t) :
    Host.Core.run Sys2Proof.core (n + 1) s = Host.Core.run Sys2Proof.core n t := by
  refine (Host.Core.run.eq_def _ _ _).trans ?_
  have : Sys2Proof.core.step s = .next t := h
  simp only [this]

/-- A run that answers a next state took its first step and went on from there. -/
theorem core_run_succ_next {n : Nat} {s u : State}
    (h : Host.Core.run Sys2Proof.core (n + 1) s = .next u) :
    ∃ t, step s = .next t ∧ Host.Core.run Sys2Proof.core n t = .next u := by
  have h := (Host.Core.run.eq_def _ _ _).symm.trans h
  cases hs : Sys2Proof.core.step s with
  | next t => simp only [hs] at h; exact ⟨t, hs, h⟩
  | fault r => nomatch (show Fault from r)
  | refused r => simp only [hs] at h; cases h

/-- No step faults: `Fault` has no value (spec/60_exceptions.md R180). -/
theorem step_ne_fault (s : State) (r : Fault) : step s ≠ .fault r := nomatch r

end Sys2Proof.Machine
end

