-- ==== Sys2Proof/Tests/Slice0.lean ====
section
/-! SUPPORT. Small tests, every expected value from spec/ (95_test_vectors.md where a name says so), and for
every statement with hypotheses a concrete state and operands that meet them. -/

open Sys2Proof Sys2Proof.Machine

namespace Sys2Proof.Tests

/-! ## Well-formedness: an ill-formed term for each check -/

theorem test_wf_refuses_wide_channels : (Instr.start 65536 16).wellFormed = false := by decide
theorem test_wf_refuses_wide_width : (Instr.start 2 65536).wellFormed = false := by decide
theorem test_wf_boundary : (Instr.start 65535 65535).wellFormed = true ∧
    (Instr.start 0 0).wellFormed = true ∧ (Instr.data 0xFF#8).wellFormed = true := by decide
theorem test_text_range_refuses : (HostLine.s16 65536).inRange = false ∧
    (HostLine.s16 (-32769)).inRange = false ∧ (HostLine.s24 16777216).inRange = false ∧
    (HostLine.data 256).inRange = false ∧ (HostLine.start 65536 16).inRange = false := by decide

/-- R5: eight planes, the width of every lane vector. -/
theorem test_eight_planes : Config.numPlanes = 8 := by decide

/-! ## Decoding: words written out from R81 to R86, `op` then the fields -/

/-- Format N, op 00, and the reserved bits set (B1). -/
theorem test_decode_clr : decode (0b00#2 ++ 0#32) = .clr ∧ decode 0x0DEADBEEF#34 = .clr := by decide
/-- Format S, op 01, channels 2, width 24. -/
theorem test_decode_start :
    decode (0b01#2 ++ 0b0000000000000010#16 ++ 0b0000000000011000#16) = .start 2 24 ∧
    decode 0x1FFFFFFFF#34 = .start 65535 65535 := by decide
/-- Format D, op 10, byte 0xAB, and with reserved bits set (B1). -/
theorem test_decode_data :
    decode (0b10#2 ++ 0#24 ++ 0b10101011#8) = .data 0xAB#8 ∧
    decode 0x2FFFFFFAB#34 = .data 0xAB#8 := by decide
/-- Format N, op 11, and the reserved bits set (B1). -/
theorem test_decode_end : decode (0b11#2 ++ 0#32) = .endFile ∧ decode 0x3FFFFFFFF#34 = .endFile := by
  decide
/-- The table's numbering, and a number wider than the port refused by name. -/
theorem test_decode_table :
    decodeTableWord 40 0x100020010 = some (.start 2 16) ∧ decodeTableWord 40 0x400000000 = none ∧
    decodeNumber 0x400000000 = .error .widerThanCommandPort := by decide
/-- Canonical words (R94). -/
theorem test_encode : encode (.start 2 16) = 0x100020010#34 ∧ encode (.data 0xAB#8) = 0x2000000AB#34 ∧
    encode .endFile = 0x300000000#34 := by decide

/-! ## States for the tests -/

/-- RUN, as START leaves it. -/
def opened (w24 : Bool) : Registers := { Registers.reset with state := .run, w24 := w24 }

/-- A reset machine whose registers are `r` and whose host drives `inputs`. -/
def machine (r : Registers) (inputs : List PortInput := []) : State :=
  { State.reset with regs := r, inputs := inputs }

/-- An edge that presents a command. -/
def present (w : CommandWord) : PortInput := ⟨false, true, w⟩

/-- The registers and events after a command, for comparing. -/
def after (i : Instr) (r : Registers) : Registers × Events :=
  match exec i (machine r) with
  | .next t => (t.regs, t.events)
  | .fault _ => (r, .silent)
  | .refused _ => (r, .silent)

/-- Just before the right sample of a 16-bit pair completes, lane 3 having `win3` (B5). -/
def pairReady (npairs : Word) (win3 : Window) (hit : BitVec 8) (first3 : Word) : Registers :=
  { opened false with
    bidx := 1#2, ch := true, npairs := npairs, hit := hit
    win := (Vector.replicate 8 0#36).set 3 win3, first := (Vector.replicate 8 0#32).set 3 first3 }

/-! ## One step of each command -/

/-- B3, 24-bit row 3: the third byte completes a left sample. -/
theorem test_data_left_sample :
    after (.data 0x92#8) { opened true with bidx := 2#2, b0 := 0x56#8, b1 := 0x34#8 } =
      ({ opened true with b0 := 0x56#8, b1 := 0x34#8, ch := true, left := 0x92345600#32 },
       ⟨some ⟨false, 0x92345600#32⟩, none⟩) := by decide

/-- B3, 24-bit row 6: a pair, and every window takes a 1. -/
theorem test_data_pair :
    after (.data 0x12#8) { opened true with
        bidx := 2#2, b0 := 0x00#8, b1 := 0xCB#8, ch := true, left := 0x92345600#32 } =
      ({ opened true with
        b0 := 0x00#8, b1 := 0xCB#8, left := 0x92345600#32, npairs := 1#32
        win := Vector.replicate 8 1#36 },
       ⟨some ⟨true, 0x12CB0000#32⟩, some ⟨0xFF#8, 0x00#8, 0#32⟩⟩) := by decide

/-- B5, row 1: a match at offset 0 sets the hit bit. -/
theorem test_match_at_offset_zero :
    (after (.data 0#8) (pairReady 35#32 0x5F024C644#36 0#8 0#32)).2.pair = some ⟨0#8, 8#8, 0#32⟩ ∧
    (after (.data 0#8) (pairReady 35#32 0x5F024C644#36 0#8 0#32)).1.hit = 8#8 := by
  set_option maxRecDepth 8000 in decide

/-- B5, rows 3, 6 and 7: too few pairs; a second match keeps FIRST; the stuck offset of overflow. -/
theorem test_match_corners :
    (after (.data 0#8) (pairReady 34#32 0x5F024C644#36 0#8 0#32)).2.pair = some ⟨0#8, 0#8, 0#32⟩ ∧
    (after (.data 0#8) (pairReady 200#32 0x5F024C644#36 8#8 7#32)).1.first[3] = 7#32 ∧
    (after (.data 0#8) (pairReady 0xFFFFFFFF#32 0x5F024C644#36 0#8 0#32)).1.first[3] = 0xFFFFFFDB#32 ∧
    (after (.data 0#8) (pairReady 0xFFFFFFFF#32 0x5F024C644#36 0#8 0#32)).1.ovf = true := by
  set_option maxRecDepth 8000 in decide

/-- B6: both operands bad gives code 1; mono gives code 2; 16-bit stereo opens. -/
theorem test_start :
    after (.start 1 8) (opened true) =
      ({ Registers.reset with state := .error, errCode := .unsupportedFormat }, .silent) ∧
    after (.start 1 16) (opened true) =
      ({ Registers.reset with state := .error, errCode := .invalidChannelLayout }, .silent) ∧
    after (.start 2 24) (opened false) = (opened true, .silent) := by decide

/-- B6: END of a whole file and of an odd one, with the result ports. -/
theorem test_end :
    (levelOutputs (after .endFile { opened false with bidx := 1#2, hit := 0x10#8, npairs := 40#32 }).1) =
      ⟨true, 2#2, 0#2, true, true, 0x10#8, Vector.replicate 8 0#32, 40#32, false⟩ ∧
    (levelOutputs (after .endFile { opened false with ch := true, hit := 0x10#8, npairs := 40#32 }).1) =
      ⟨true, 3#2, 3#2, false, false, 0#8, Vector.replicate 8 0#32, 40#32, false⟩ := by decide

/-- B6: CLR in DONE gives `S0`. -/
theorem test_clr : after .clr { opened true with state := .done, hit := 0x81#8 } = (.reset, .silent) := by
  decide

/-- The first instruction after reset is the one presented. -/
theorem test_withFetchWord :
    step (State.reset.withFetchWord 40 0x100020018) = .next (machine (opened true)) := by rfl

/-- Text to commands (B1) and a word's spelling (R94). -/
theorem test_text :
    (HostLine.s16 (-2)).commands = [.data 0xFE#8, .data 0xFF#8] ∧
    (HostLine.s24 (-7195562)).commands = [.data 0x56#8, .data 0x34#8, .data 0x92#8] ∧
    readLine ['S', '1', '6', ' ', '-', '2', ' ', ';', 'x'] = some [.s16 (-2)] ∧
    readLine ['S', 'T', 'A', 'R', 'T', ' ', '2', ',', ' ', '0', 'x', '1', '0'] = some [.start 2 16] ∧
    spellWord 0x2000000AB#34 = ['0', 'x', '2', '0', '0', '0', '0', '0', '0', 'A', 'B'] := by decide

/-! ## Witnesses: the hypotheses of each statement can be met, clause by clause -/

/-- DecodeOfEncodeIsTheCommand, at the ends of START's fields. -/
theorem witness_wellFormed : (Instr.start 65535 0).wellFormed = true ∧ Instr.endFile.wellFormed = true ∧
    Instr.clr.wellFormed = true ∧ (Instr.data 0#8).wellFormed = true := by decide

/-- ReservedBitsAreIgnored: two words for each clause. -/
theorem witness_reserved :
    (0x2FFFFFFAB#34 &&& 0x300000000#34 = 0x200000000#34 ∧
      0x2FFFFFFAB#34 &&& 0x3000000FF#34 = 0x2000000AB#34 &&& 0x3000000FF#34) ∧
    (0x0DEADBEEF#34 &&& 0x300000000#34 = 0x000000000#34 ∧
      0x0DEADBEEF#34 &&& 0x300000000#34 = 0x000000000#34 &&& 0x300000000#34) ∧
    (0x3FFFFFFFF#34 &&& 0x300000000#34 = 0x300000000#34 ∧
      0x3FFFFFFFF#34 &&& 0x300000000#34 = 0x300000001#34 &&& 0x300000000#34) := by decide

/-- TextSamplesBecomeCanonicalSamples: both widths, at the ends of both ranges. -/
theorem witness_text_samples :
    (inRange16 (-32768) = true ∧ inRange16 65535 = true ∧ inRange24 (-8388608) = true ∧
      inRange24 16777215 = true) ∧
    (∀ w24, (machine (opened w24)).regs.state = .run ∧ (machine (opened w24)).regs.w24 = w24 ∧
      (machine (opened w24)).regs.bidx = 0#2 ∧ (machine (opened w24)).regs.ch = false) := by decide

/-- TextPresentsItsCommands. -/
theorem witness_text_lines :
    ∀ l ∈ [HostLine.reset, .start 65535 0, .data 255, .idle 3, .bytes [0, 255], .frame16 (-1) 65535],
      l.inRange = true := by decide

/-- StepRunsTheDecodedCommand: an edge for each of the three clauses. -/
theorem witness_edges :
    ((machine .reset [present 0x100020010#34]).resetSeen = true ∧
      (machine .reset [present 0x100020010#34]).port.rst = false ∧
      (machine .reset [present 0x100020010#34]).port.cmdValid = true) ∧
    ((machine .reset []).resetSeen = true ∧ (machine .reset []).port.rst = false ∧
      (machine .reset []).port.cmdValid = false) ∧
    (machine .reset [⟨true, true, 0x300000000#34⟩]).port.rst = true := by decide

/-- A machine that has not been reset, whatever its registers are. -/
def unreset (r : Registers) (inputs : List PortInput) : State := { machine r inputs with resetSeen := false }

/-- NothingIsClaimedBeforeTheFirstReset: a command, a quiet edge and a reset before the first reset. -/
theorem witness_before_reset :
    ((unreset .reset [present 0#34]).resetSeen = false ∧ (unreset .reset [present 0#34]).port.rst = false ∧
      (unreset .reset [present 0#34]).port.cmdValid = true) ∧
    ((unreset .reset []).resetSeen = false ∧ (unreset .reset []).port.rst = false ∧
      (unreset .reset []).port.cmdValid = false ∧ ∃ t, step (unreset .reset []) = .next t) ∧
    (∃ t, step (unreset (opened true) [.resetEdge]) = .next t ∧ t.regs = .reset) :=
  ⟨by decide, ⟨rfl, rfl, rfl, _, rfl⟩, _, rfl, rfl⟩

/-- R211: a command that withFetchWord presents before the first reset is still refused. -/
theorem test_unreset_refuses :
    step ((unreset .reset []).withFetchWord 40 0x100020018) = .refused .commandBeforeReset := by rfl

/-- EveryWordHasANextState and QuietEdgesDoNotMatter. -/
theorem witness_ready : State.reset.resetSeen = true ∧
    ∀ p ∈ [PortInput.quiet, present 0x100020010#34, .quiet], p.rst = false := by decide

/-- StartOpensTheFile and StartRefusesABadDescriptor: the numbers around 16, 24 and 2. -/
theorem witness_descriptors :
    (16 = 16 ∨ 16 = 24) ∧ (24 = 16 ∨ 24 = 24) ∧
    (∀ w ∈ [0, 15, 17, 23, 25, 65535], w ≠ 16 ∧ w ≠ 24) ∧ (∀ c ∈ [0, 1, 3, 65535], c ≠ 2) := by decide

/-- EarlierFilesLeaveNoTrace: a file abandoned in RUN. -/
theorem witness_earlier :
    commandDiscards (.start 2 16) = true ∧ commandDiscards .clr = true ∧
    execAll [.start 2 24, .data 0x55#8] State.reset =
      .next (machine { opened true with bidx := 1#2, b0 := 0x55#8 }) := by
  refine ⟨rfl, rfl, rfl⟩

/-- SaturatedBadDescriptorIsRefused: 65538 channels, whose low 16 bits are 2, and a width of 65552. -/
theorem witness_saturated : State.reset.resetSeen = true ∧ (65538 ≠ 2 ∨ (16 ≠ 16 ∧ 16 ≠ 24)) ∧ (2 ≠ 2 ∨ (65552 ≠ 16 ∧ 65552 ≠ 24)) := by
  decide

/-- DataOutsideRunIsIgnored, EndOutsideRunIsIgnored. -/
theorem witness_outside_run :
    ∀ p ∈ [Phase.idle, .done, .error], (machine { Registers.reset with state := p }).regs.state ≠ .run := by
  decide

/-- DataStoresAnInnerByte: the first byte of each width, the second of 24 bits, and a count no run
reaches. -/
theorem witness_inner_byte :
    ∀ c ∈ [(false, 0#2), (true, 0#2), (true, 1#2), (false, 3#2)],
      (machine { opened c.1 with bidx := c.2 }).regs.state = .run ∧
      ¬ (c.1 = false ∧ c.2 = 1#2) ∧ ¬ (c.1 = true ∧ c.2 = 2#2) := by decide

/-- DataCompletesALeftSample and DataCompletesAPair: the last byte of each width, either channel. -/
theorem witness_last_byte :
    ∀ ch : Bool,
      ((machine { opened false with bidx := 1#2, ch := ch }).regs.state = .run ∧
        (machine { opened false with bidx := 1#2, ch := ch }).regs.ch = ch ∧
        (machine { opened false with bidx := 1#2, ch := ch }).regs.w24 = false ∧
        0x12340000#32 = 0x12#8 ++ 0x34#8 ++ 0#16) ∧
      ((machine { opened true with bidx := 2#2, ch := ch }).regs.state = .run ∧
        (machine { opened true with bidx := 2#2, ch := ch }).regs.ch = ch ∧
        (machine { opened true with bidx := 2#2, ch := ch }).regs.w24 = true ∧
        0x12345600#32 = 0x12#8 ++ 0x34#8 ++ 0x56#8 ++ 0#8) := by decide

/-- OccurrencesDoNotOverlap: two occurrences, as near as they come. -/
theorem witness_occurrences : occursAt (pat ++ pat) 0 = true ∧ occursAt (pat ++ pat) 36 = true ∧
    0 < 36 := by decide

/-- WindowMatchesExactlyTheLastBits: both sides hold of a stream that ends in the pattern. -/
theorem witness_window : 36 ≤ (true :: pat).length ∧ (true :: pat).drop ((true :: pat).length - 36) = pat := by
  decide

/-- WindowHoldsTheNewestBits and PatternIsMagicMostSignificantBitFirst: both ends of the bit numbers, a bit
that has arrived and one that has not. -/
theorem witness_bit_numbers : 0 < 36 ∧ 35 < 36 ∧ 0 < [true].length ∧ ¬ 35 < [true].length := by decide

/-- LanesAreIndependent: states that agree in lane 3 and not in lane 0. -/
theorem witness_lanes :
    (pairReady 35#32 1#36 8#8 7#32).win[3] =
      ({ pairReady 35#32 1#36 9#8 7#32 with left := 5#32 }).win[3] ∧
    (pairReady 35#32 1#36 8#8 7#32).hit[3] =
      ({ pairReady 35#32 1#36 9#8 7#32 with left := 5#32 }).hit[3] ∧
    (planeBits 0x00080000#32 0#32)[3] = (planeBits 0x00090000#32 0#32)[3] := by decide

/-- EndFinishesTheFile, EndOfAnOddFileIsUnpaired. -/
theorem witness_end : ∀ ch : Bool, (machine { opened true with ch := ch, bidx := 2#2 }).regs.state = .run ∧
    (machine { opened true with ch := ch, bidx := 2#2 }).regs.ch = ch := by decide

/-- StateFollowsTheTransitionTable, OnlyDataInRunEmitsEvents, the first half of EventStrobesAreSpaced: a
step that completes a left sample, and a quiet one after it. -/
theorem witness_emitting_step :
    (machine { opened false with bidx := 1#2 } [present 0x200000012#34]).resetSeen = true ∧
    step (machine { opened false with bidx := 1#2 } [present 0x200000012#34]) =
      .next { machine { opened false with ch := true, left := 0x12000000#32 } with
        events := ⟨some ⟨false, 0x12000000#32⟩, none⟩ } ∧
    step { machine { opened false with ch := true, left := 0x12000000#32 } with
        events := ⟨some ⟨false, 0x12000000#32⟩, none⟩ } =
      .next (machine { opened false with ch := true, left := 0x12000000#32 }) := by
  refine ⟨rfl, rfl, rfl⟩

/-- The rest of OnlyDataInRunEmitsEvents and EventStrobesAreSpaced: a step that completes a pair, after
which quiet edges can follow. -/
theorem witness_pair_step :
    (machine (pairReady 35#32 0x5F024C644#36 0#8 0#32) [present 0x200000000#34]).resetSeen = true ∧
    ∃ t u v w, step (machine (pairReady 35#32 0x5F024C644#36 0#8 0#32) [present 0x200000000#34]) = .next t ∧
      t.events.pair ≠ none ∧ step t = .next u ∧ step u = .next v ∧ step v = .next w :=
  ⟨rfl, _, _, _, _, rfl, nofun, rfl, rfl, rfl⟩

/-- ClosedFileIsHeldUntilDiscarded and HitsOffsetsAndOverflowAreSticky: DATA in DONE with a hit and a lost
count. -/
theorem witness_closed :
    (machine { opened false with state := .done, hit := 1#8, ovf := true }
      [present 0x200000055#34]).resetSeen = true ∧
    step (machine { opened false with state := .done, hit := 1#8, ovf := true } [present 0x200000055#34]) =
      .next (machine { opened false with state := .done, hit := 1#8, ovf := true }) ∧
    (machine { opened false with state := .done, hit := 1#8, ovf := true }
      [present 0x200000055#34]).port.discards = false ∧
    (machine { opened false with state := .done, hit := 1#8, ovf := true }).regs.hit[0] = true := by
  refine ⟨rfl, rfl, rfl, rfl⟩

/-- CommandsSeeOnlyTheRegisters: two machines that differ in what the host will drive. -/
theorem witness_same_registers :
    (machine (opened true) []).regs = (machine (opened true) [.quiet]).regs ∧
    ∃ t t', exec .endFile (machine (opened true) []) = .next t ∧
      exec .endFile (machine (opened true) [.quiet]) = .next t' :=
  ⟨rfl, _, _, rfl, rfl⟩

/-- EveryStepKeepsTheInvariants: a state with an open file meets the invariants, and can step. -/
theorem witness_reachable : ((machine (opened true) [present 0x200000055#34]).resetSeen = true ∧
      (machine (opened true) [present 0x200000055#34]).regs.Reachable) ∧
    ∃ t, step (machine (opened true) [present 0x200000055#34]) = .next t := by
  refine ⟨⟨rfl, ?_⟩, _, rfl⟩
  constructor <;> decide

/-- InvariantsHoldFromTheFirstResetOn: a run that begins with a reset edge, before any reset. -/
theorem witness_first_reset :
    (unreset (opened true) [.resetEdge]).port.rst = true ∧
    ∃ t, Host.Core.run Sys2Proof.core (0 + 1)
      (unreset (opened true) [.resetEdge]) = .next t :=
  ⟨rfl, _, core_run_next rfl⟩

/-- EveryOccurrenceIsReportedOnce: a 16-bit file whose plane 16 is the pattern itself, so it occurs at 0 and
is reported by pair 35, the boundary of the third clause; pair 34 is in the file too. -/
theorem witness_occurrence_at_the_boundary :
    filePlane false (pat.flatMap fun b => [if b then 1#8 else 0#8, 0#8, 0#8, 0#8]) 0 = pat ∧
    occursAt pat 0 = true ∧ 34 < pat.length ∧ 35 < pat.length ∧ pat.length ≤ 2 ^ 32 - 1 ∧
    exec (.start 2 (if false then 24 else 16)) State.reset = .next (machine (opened false)) := by
  refine ⟨?_, by decide, by decide, by decide, by decide, rfl⟩
  set_option maxRecDepth 20000 in decide

/-- EventsShowTheWholeFile and EveryOccurrenceIsReportedOnce: START answers a next state, and four bytes
give a pair event. -/
theorem witness_file_events :
    exec (.start 2 (if false then 24 else 16)) State.reset = .next (machine (opened false)) ∧
    (filePlane false [1#8, 0#8, 0#8, 0#8] 0).length ≤ 2 ^ 32 - 1 ∧
    ((eventsOf ([1#8, 0#8, 0#8, 0#8].map .data) (machine (opened false))).filterMap
      (fun e => e.pair))[0]? = some ⟨1#8, 0#8, 0#32⟩ := by
  refine ⟨rfl, by decide, by decide⟩

/-- BlockComputesTheDocumentsVerdict, ShortFilesAreNotFound, EqualChannelsAreNeverFound: two pairs of equal
samples, and a leftover byte. -/
theorem witness_files :
    (samplesOf (16 == 24) [1#8, 2#8, 1#8, 2#8, 9#8]).length / 2 ≤ 2 ^ 32 - 1 ∧
    (samplesOf false [1#8, 2#8, 1#8, 2#8, 9#8]).length / 2 < 36 ∧
    (samplesOf false [1#8, 2#8, 1#8, 2#8, 9#8]).length % 2 = 0 ∧
    ∀ p ∈ pairsOf (samplesOf false [1#8, 2#8, 1#8, 2#8, 9#8]), p.1 = p.2 := by
  refine ⟨?_, ?_, ?_, ?_⟩ <;> simp [samplesOf, pairsOf]

end Sys2Proof.Tests
end

/-! PROOFS. The scope of the block (spec/00_scope.md): the step function is total once a reset has been
seen, and a command reads the registers and nothing else. -/

namespace Sys2Proof.Machine

/-! ## What an edge does, by the inputs at the port -/

/-- A reset edge has a next state, from whatever state (R210). -/
theorem step_of_rst {s : State} (hr : s.port.rst = true) : step s = .next s.popPort.afterReset := by
  simp [step, clockEdge, hr]

/-- After a reset an accepted command runs, on the machine whose port has moved on (R80). -/
theorem step_of_accepted {s : State} {i : Instr} (hs : s.resetSeen = true) (hr : s.port.rst = false)
    (hi : s.port.accepted = some i) : step s = exec i s.popPort := by
  simp [step, clockEdge, State.accept, hr, hi, hs]

/-- After a reset an edge with neither a reset nor a command only silences the events (R222). -/
theorem step_of_idle {s : State} (hs : s.resetSeen = true) (hr : s.port.rst = false)
    (hi : s.port.accepted = none) : step s = .next s.popPort.afterIdle := by
  simp [step, clockEdge, State.quietEdge, hr, hi, hs]

/-! ## Totality (R6, R85, R180) -/

/-- Every command has a next state in every state, with or without a reset: the commit of its step. -/
theorem exec_completes (i : Instr) (s : State) : completes (exec i s) :=
  ⟨_, exec_eq_commit i s⟩

/-- Once a reset has been seen every edge has a next state, whatever the host drives. -/
theorem step_completes_of_resetSeen {s : State} (hs : s.resetSeen = true) : completes (step s) := by
  cases hr : s.port.rst with
  | true => exact ⟨_, step_of_rst hr⟩
  | false =>
    cases hi : s.port.accepted with
    | none => exact ⟨_, step_of_idle hs hr hi⟩
    | some i =>
      rw [step_of_accepted hs hr hi]
      exact exec_completes i s.popPort

/-- Settles O12: a step after a reset is a reset, a quiet edge or a command, and each of them completes;
presenting a word keeps the record of the reset. -/
theorem everyWordHasANextState : Obligations.EveryWordHasANextState := by
  refine ⟨fun s hs => ?_, fun s w hs => ?_, fun s i => exec_completes i s⟩
  · obtain ⟨t, ht⟩ := step_completes_of_resetSeen hs
    exact ⟨t, ht, step_keeps_resetSeen hs ht⟩
  · have hw : (s.present w).resetSeen = true := hs
    exact step_completes_of_resetSeen hw

/-! ## Determinism (R6, R20, R71) -/

/-- Settles O41: a command commits `commandStep i` of the registers, so equal registers give equal
registers and events, and a commit touches no other field. -/
theorem commandsSeeOnlyTheRegisters : Obligations.CommandsSeeOnlyTheRegisters := by
  intro i s s' t t' hregs ht ht'
  obtain rfl := (exec_next_iff i s t).1 ht
  obtain rfl := (exec_next_iff i s' t').1 ht'
  have hstep : commandStep i s.regs = commandStep i s'.regs := congrArg (commandStep i) hregs
  exact ⟨congrArg Prod.fst hstep, congrArg Prod.snd hstep, rfl, rfl, rfl⟩

end Sys2Proof.Machine

/-! PROOFS. The state of the block (spec/10_state.md): its value after reset, what CLR, DATA and END leave
unchanged, the invariants (a) to (j) of R36, and what the registers hold of the file read so far. -/

namespace Sys2Proof.Machine

/-! ## The reset state (R50, R51) -/

/-- In `S0` no result port is on, whatever the vectors hold: `STATE` is IDLE (R50, R168). -/
theorem levelOutputs_reset : levelOutputs .reset =
    ⟨true, 0#2, 0#2, false, false, 0#8, Vector.replicate 8 0#32, 0#32, false⟩ := rfl

/-- A step that emits nothing shows zeros on every event port (R44). -/
theorem eventPorts_silent : eventPorts .silent = ⟨false, false, 0#32, false, 0#8, 0#8, 0#32⟩ := rfl

/-- The registers right after reset are `S0`. -/
@[simp] theorem State.reset_regs : State.reset.regs = .reset := rfl

/-- The event outputs right after reset are silent. -/
@[simp] theorem State.reset_events : State.reset.events = .silent := rfl

/-- Settles O10: the registers of `S0` field by field, then the two groups of ports. -/
theorem resetStateIsS0 : Obligations.ResetStateIsS0 :=
  ⟨rfl, rfl, rfl, rfl, rfl, rfl, rfl, rfl, fun k => by simp, rfl, rfl, rfl, fun k => by simp,
    levelOutputs_reset, eventPorts_silent⟩

/-- Settles O14: CLR commits the cleared registers and no event. -/
theorem clrReachesS0 : Obligations.ClrReachesS0 := by
  intro s
  rw [exec_eq_commit]
  rfl

/-! ## Commands that keep the file (R67): DATA and END -/

/-- At an edge without reset the accepted command decides whether the file is discarded. -/
theorem PortInput.discards_of_accepted {p : PortInput} {i : Instr} (hr : p.rst = false)
    (hi : p.accepted = some i) : p.discards = commandDiscards i := by
  simp [PortInput.discards, hr, hi]

/-- Only a right sample's DATA moves the matcher: this is what every other command that keeps the file,
and every quiet edge, does to it. `p` is the step's pair of registers and events. -/
structure Registers.KeepsMatches (r : Registers) (p : Registers × Events) : Prop where
  /-- A hit and its offset stay (R32, R33). -/
  hit : ∀ k : Lane, r.hit[k] = true → p.1.hit[k] = true ∧ p.1.first[k] = r.first[k]
  /-- A lost count stays lost (R31). -/
  ovf : r.ovf = true → p.1.ovf = true
  /-- The width of the open file stays (R23). -/
  w24 : p.1.w24 = r.w24
  /-- Without a pair event the count, the hits and the windows stay (R29, R30, R120). -/
  quiet : p.2.pair = none → p.1.npairs = r.npairs ∧ p.1.hit = r.hit ∧ p.1.win = r.win

/-- A step that emits no pair and writes none of the count, the windows, the hits and the offsets. -/
theorem Registers.KeepsMatches.of_frame {r : Registers} {p : Registers × Events}
    (hhit : p.1.hit = r.hit) (hfirst : p.1.first = r.first) (hovf : p.1.ovf = r.ovf)
    (hw24 : p.1.w24 = r.w24) (hnpairs : p.1.npairs = r.npairs) (hwin : p.1.win = r.win) :
    r.KeepsMatches p where
  hit k hk := ⟨by rw [hhit]; exact hk, by rw [hfirst]⟩
  ovf h := by rw [hovf]; exact h
  w24 := hw24
  quiet _ := ⟨hnpairs, hhit, hwin⟩

/-- A pair step collects hits and writes only the offset of a lane without one (R126, R140). -/
theorem pairStep_keepsMatches (l c : Word) (r : Registers) (norm : Option NormEvent) :
    r.KeepsMatches ((pairStep l c r).1, ⟨norm, some (pairStep l c r).2⟩) where
  hit k hk := by
    simp only [Fin.getElem_fin] at hk ⊢
    simp [pairStep_regs, hk]
  ovf h := by simp [pairStep_regs, nextOverflow, h]
  w24 := rfl
  quiet h := nomatch h

/-- DATA keeps the matches in each of its four cases. -/
theorem dataStep_keepsMatches (d : Byte) (r : Registers) : r.KeepsMatches (dataStep d r) := by
  obtain ⟨-, h⟩ | ⟨-, -, h⟩ | ⟨-, -, -, h⟩ | ⟨-, -, -, h⟩ := dataStep_cases d r <;> rw [h]
  · exact .of_frame rfl rfl rfl rfl rfl rfl
  · rw [Registers.storeByte_frame]
    exact .of_frame rfl rfl rfl rfl rfl rfl
  · exact .of_frame rfl rfl rfl rfl rfl rfl
  · obtain ⟨hhit, hovf, hw24, hquiet⟩ := pairStep_keepsMatches r.left (completedSample r d)
      { r with bidx := 0#2, ch := false } (some ⟨true, completedSample r d⟩)
    exact ⟨hhit, hovf, hw24, hquiet⟩

/-- END keeps the matches in each of its three cases. -/
theorem endStep_keepsMatches (r : Registers) : r.KeepsMatches (endStep r) := by
  obtain ⟨-, h⟩ | ⟨-, -, h⟩ | ⟨-, -, h⟩ := endStep_cases r <;> rw [h] <;>
    exact .of_frame rfl rfl rfl rfl rfl rfl

/-- A command that does not discard the file is DATA or END, and both keep the matches. -/
theorem commandStep_keepsMatches {i : Instr} (hi : commandDiscards i = false) (r : Registers) :
    r.KeepsMatches (commandStep i r) := by
  cases i with
  | clr => cases hi
  | start channels width => cases hi
  | data d => exact dataStep_keepsMatches d r
  | endFile => exact endStep_keepsMatches r

/-- After a reset every edge that does not discard the file keeps the matches. -/
theorem step_keepsMatches {s t : State} (hs : s.resetSeen = true) (h : step s = .next t)
    (hd : s.port.discards = false) : s.regs.KeepsMatches (t.regs, t.events) := by
  obtain ⟨hr, -⟩ | ⟨i, hr, hi, rfl⟩ | ⟨-, -, rfl⟩ := step_next_cases_of_reset hs h
  · simp [PortInput.discards, hr] at hd
  · exact commandStep_keepsMatches (by rw [← PortInput.discards_of_accepted hr hi, hd]) s.regs
  · exact .of_frame rfl rfl rfl rfl rfl rfl

/-- Settles O38: a step that does not discard the file keeps the matches. -/
theorem hitsOffsetsAndOverflowAreSticky : Obligations.HitsOffsetsAndOverflowAreSticky := by
  intro s t hs h hd
  obtain ⟨hhit, hovf, hw24, hquiet⟩ := step_keepsMatches hs h hd
  exact ⟨hhit, hovf, hw24, hquiet⟩

/-! ## Events (R44) -/

/-- CLR, START and END emit nothing. -/
theorem commandStep_silent {i : Instr} (hi : ∀ d, i ≠ .data d) (r : Registers) :
    (commandStep i r).2 = .silent := by
  cases i with
  | clr => rfl
  | start channels width =>
    obtain ⟨-, -, h⟩ | ⟨-, -, h⟩ | ⟨-, -, h⟩ := startStep_cases channels width r <;>
      exact congrArg Prod.snd h
  | data d => exact absurd rfl (hi d)
  | endFile =>
    obtain ⟨-, h⟩ | ⟨-, -, h⟩ | ⟨-, -, h⟩ := endStep_cases r <;> exact congrArg Prod.snd h

/-- DATA emits a sample event in RUN only. -/
theorem run_of_dataStep_norm {d : Byte} {r : Registers} (h : (dataStep d r).2.norm ≠ none) :
    r.state = .run := by
  by_contra hs
  simp [dataStep, hs] at h

/-- A pair event of DATA comes with the sample event of its right sample. -/
theorem dataStep_norm_of_pair {d : Byte} {r : Registers} (h : (dataStep d r).2.pair ≠ none) :
    ∃ c, (dataStep d r).2.norm = some ⟨true, c⟩ := by
  obtain ⟨-, hd⟩ | ⟨-, -, hd⟩ | ⟨-, -, -, hd⟩ | ⟨-, -, -, hd⟩ := dataStep_cases d r <;>
    rw [hd] at h ⊢
  · exact absurd rfl h
  · exact absurd rfl h
  · exact absurd rfl h
  · exact ⟨_, rfl⟩

/-- After a reset a step is silent, or it is the step of an accepted DATA. -/
theorem step_events_cases {s t : State} (hs : s.resetSeen = true) (h : step s = .next t) :
    t.events = .silent ∨
    ∃ d, s.port.accepted = some (.data d) ∧ t.events = (dataStep d s.regs).2 := by
  obtain ⟨-, rfl⟩ | ⟨i, -, hi, rfl⟩ | ⟨-, -, rfl⟩ := step_next_cases_of_reset hs h
  · exact .inl rfl
  · by_cases hdata : ∃ d, i = .data d
    · obtain ⟨d, rfl⟩ := hdata
      exact .inr ⟨d, hi, rfl⟩
    · exact .inl (commandStep_silent (fun d e => hdata ⟨d, e⟩) s.regs)
  · exact .inl rfl

/-- Settles O39: what is emitted is emitted by DATA, whose cases say when; the ports copy the fields of
a present event. -/
theorem onlyDataInRunEmitsEvents : Obligations.OnlyDataInRunEmitsEvents := by
  refine ⟨fun s t hs h hn => ?_, fun s t hs h hp => ?_, fun _ _ => rfl, fun _ => rfl, eventPorts_silent⟩
  · obtain ht | ⟨d, hd, ht⟩ := step_events_cases hs h
    · simp [ht] at hn
    · rw [ht] at hn
      exact ⟨run_of_dataStep_norm hn, d, hd⟩
  · obtain ht | ⟨d, -, ht⟩ := step_events_cases hs h
    · simp [ht] at hp
    · rw [ht] at hp ⊢
      exact dataStep_norm_of_pair hp

/-! ## The invariants (a) to (j) of R36 -/

/-- (g) to (j) of R36: what the count, the overflow flag, the hits and the offsets say of each other. No
other register occurs in them. -/
structure Registers.TallyConsistent (r : Registers) : Prop where
  /-- (g) -/
  noHitNoFirst : ∀ k : Lane, r.hit[k] = false → r.first[k] = 0#32
  /-- (h) -/
  hitNeedsPairs : r.hit ≠ 0#8 → 36 ≤ r.npairs.toNat
  /-- (i) -/
  overflowIsFull : r.ovf = true → r.npairs = 0xFFFFFFFF#32
  /-- (j) -/
  firstInFile : ∀ k : Lane, r.hit[k] = true → r.ovf = false →
    r.first[k].toNat + 36 ≤ r.npairs.toNat

/-- `TallyConsistent` is the second half of `Reachable`. -/
theorem Registers.Reachable.tally {r : Registers} (h : r.Reachable) : r.TallyConsistent :=
  ⟨h.noHitNoFirst, h.hitNeedsPairs, h.overflowIsFull, h.firstInFile⟩

/-- Before the first pair of a file the tally is empty. -/
theorem tallyConsistent_reset : Registers.reset.TallyConsistent := by
  constructor <;> simp

/-- A lane matches only when the count says that its window is full (R138). -/
theorem full_of_matchBits {n : Word} {win : Vector Window 8} {k : Nat} (hk : k < 8)
    (h : (matchBits n win)[k] = true) : 36 ≤ n.toNat := by
  simp [windowFull] at h
  exact h.1

/-- While fewer than 36 pairs have arrived no lane matches (R138). -/
theorem matchBits_of_lt {n : Word} {win : Vector Window 8} (h : n.toNat < 36) :
    matchBits n win = 0#8 := by
  refine BitVec.eq_of_getElem_eq fun k hk => ?_
  have hfull : (matchBits n win)[k] ≠ true := fun hm => absurd (full_of_matchBits hk hm) (by omega)
  simpa using hfull

/-- The count never falls within a file (R126). -/
theorem le_nextCount (n : Word) : n.toNat ≤ (nextCount n).toNat := by
  have := n.isLt
  rw [nextCount_toNat, sat32]
  omega

/-- A count that has reached its last value stays there (R126). -/
theorem nextCount_max : nextCount 0xFFFFFFFF#32 = 0xFFFFFFFF#32 := rfl

/-- A pair step keeps (g) to (j): a new hit needs 36 pairs, and its offset is 36 below the count. -/
theorem pairStep_keeps_tally (l c : Word) {r : Registers} (h : r.TallyConsistent) :
    (pairStep l c r).1.TallyConsistent := by
  have hcount := le_nextCount r.npairs
  rw [pairStep_regs, pairStep_event]
  constructor
  case noHitNoFirst =>
    intro k hk
    have hold := h.noHitNoFirst k
    simp only [Fin.getElem_fin, nextHit_getElem, Bool.or_eq_false_iff] at hk hold ⊢
    obtain ⟨hhit, hm⟩ := hk
    rw [nextFirst_getElem, hm]
    exact hold hhit
  case hitNeedsPairs =>
    intro hhit
    by_contra hle
    have hlt : (nextCount r.npairs).toNat < 36 := Nat.lt_of_not_le hle
    have hm : matchBits (nextCount r.npairs) (shiftWindows r.win (planeBits l c)) = 0#8 :=
      matchBits_of_lt hlt
    have hold : r.hit = 0#8 := by
      by_contra hne
      have := h.hitNeedsPairs hne
      omega
    exact hhit (by simp [nextHit, hm, hold])
  case overflowIsFull =>
    intro hovf
    have hmax : r.npairs = 0xFFFFFFFF#32 := by
      simp only [nextOverflow, Bool.or_eq_true, beq_iff_eq] at hovf
      exact hovf.elim h.overflowIsFull id
    simp only [hmax, nextCount_max]
  case firstInFile =>
    intro k hk hovf
    have hold := h.firstInFile k
    simp only [nextOverflow, Bool.or_eq_false_iff] at hovf
    simp only [Fin.getElem_fin, nextHit_getElem, nextFirst_getElem] at hk hold ⊢
    cases hhit : r.hit[(k : Nat)] with
    | true =>
      have := hold hhit hovf.1
      simp only [Bool.not_true, Bool.and_false, Bool.false_eq_true, if_false]
      omega
    | false =>
      rw [hhit, Bool.false_or] at hk
      have hfull := full_of_matchBits k.isLt hk
      have hoff := matchOffset_toNat (nextCount r.npairs)
      simp only [hk, Bool.not_false, Bool.and_true, if_true]
      omega

/-- An open file meets the invariants when it has no error code, its byte index fits its width, and its
tally is consistent: the others speak of the other three values of `STATE`. -/
theorem reachable_of_run {r : Registers} (hs : r.state = .run) (he : r.errCode = .none)
    (h16 : r.w24 = false → r.bidx.toNat ≤ 1) (h24 : r.w24 = true → r.bidx.toNat ≤ 2)
    (ht : r.TallyConsistent) : r.Reachable where
  bidx16 := h16
  bidx24 := h24
  errCodeIffError := by simp [hs, he]
  idleIsReset h := by simp [hs] at h
  refusedStartIsReset h := by simp [hs] at h
  doneIsWhole h := by simp [hs] at h
  unpairedHasLeft h := by simp [hs] at h
  noHitNoFirst := ht.noHitNoFirst
  hitNeedsPairs := ht.hitNeedsPairs
  overflowIsFull := ht.overflowIsFull
  firstInFile := ht.firstInFile

/-- Outside ERROR there is no error code (b). -/
theorem Registers.Reachable.errCode_of_run {r : Registers} (h : r.Reachable) (hs : r.state = .run) :
    r.errCode = .none := by
  by_contra he
  have := h.errCodeIffError.1 he
  simp [hs] at this

/-- `S0` meets the invariants. -/
theorem reachable_reset : Registers.reset.Reachable := by
  constructor <;> simp

/-- A refused START meets the invariants: it is `S0` but for `STATE` and the code (d). -/
theorem reachable_refusedStart {code : ErrCode}
    (hc : code = .unsupportedFormat ∨ code = .invalidChannelLayout) :
    (Registers.reset.raise code).Reachable := by
  obtain rfl | rfl := hc <;> constructor <;> simp [Registers.raise]

/-- START meets the invariants in each of its three outcomes, from whatever registers. -/
theorem startStep_reachable (channels width : Nat) (r : Registers) :
    (startStep channels width r).1.Reachable := by
  obtain ⟨-, -, h⟩ | ⟨-, -, h⟩ | ⟨-, -, h⟩ := startStep_cases channels width r <;> rw [h]
  · exact reachable_refusedStart (.inl rfl)
  · exact reachable_refusedStart (.inr rfl)
  · obtain ⟨hfirst, hpairs, hfull, hfile⟩ := tallyConsistent_reset
    exact reachable_of_run rfl rfl (by simp) (by simp) ⟨hfirst, hpairs, hfull, hfile⟩

/-- A byte that completes no sample counts up `BIDX`, and below the width's last index that stays within
(a) (R102). -/
theorem bidx_succ_of_inner {w24 : Bool} {bidx : BitVec 2} (h16 : w24 = false → bidx.toNat ≤ 1)
    (h24 : w24 = true → bidx.toNat ≤ 2) (hl : lastByte w24 bidx = false) :
    (w24 = false → (bidx + 1#2).toNat ≤ 1) ∧ (w24 = true → (bidx + 1#2).toNat ≤ 2) := by
  revert w24 bidx
  decide

/-- DATA keeps the invariants in each of its four cases. -/
theorem dataStep_reachable (d : Byte) {r : Registers} (h : r.Reachable) :
    (dataStep d r).1.Reachable := by
  have ht := h.tally
  obtain ⟨-, hd⟩ | ⟨hs, hl, hd⟩ | ⟨hs, -, -, hd⟩ | ⟨hs, -, -, hd⟩ := dataStep_cases d r <;> rw [hd]
  · exact h
  · obtain ⟨h16, h24⟩ := bidx_succ_of_inner h.bidx16 h.bidx24 hl
    rw [Registers.storeByte_frame]
    exact reachable_of_run hs (h.errCode_of_run hs) h16 h24
      ⟨ht.noHitNoFirst, ht.hitNeedsPairs, ht.overflowIsFull, ht.firstInFile⟩
  · exact reachable_of_run hs (h.errCode_of_run hs) (by simp) (by simp)
      ⟨ht.noHitNoFirst, ht.hitNeedsPairs, ht.overflowIsFull, ht.firstInFile⟩
  · refine reachable_of_run hs (h.errCode_of_run hs) (by simp [pairStep_regs])
      (by simp [pairStep_regs]) (pairStep_keeps_tally _ _ ?_)
    exact ⟨ht.noHitNoFirst, ht.hitNeedsPairs, ht.overflowIsFull, ht.firstInFile⟩

/-- END keeps the invariants: it leaves UnpairedSample as (f) says and DONE as (e) says. -/
theorem endStep_reachable {r : Registers} (h : r.Reachable) : (endStep r).1.Reachable := by
  obtain ⟨-, he⟩ | ⟨hs, hc, he⟩ | ⟨hs, hc, he⟩ := endStep_cases r <;> rw [he]
  · exact h
  · exact {
      bidx16 := by simp
      bidx24 := by simp
      errCodeIffError := by simp
      idleIsReset := by simp
      refusedStartIsReset := by simp
      doneIsWhole := by simp
      unpairedHasLeft := by simp [hc]
      noHitNoFirst := h.noHitNoFirst
      hitNeedsPairs := h.hitNeedsPairs
      overflowIsFull := h.overflowIsFull
      firstInFile := h.firstInFile }
  · exact {
      bidx16 := by simp
      bidx24 := by simp
      errCodeIffError := by simp [h.errCode_of_run hs]
      idleIsReset := by simp
      refusedStartIsReset := by simp
      doneIsWhole := by simp [hc]
      unpairedHasLeft := by simp
      noHitNoFirst := h.noHitNoFirst
      hitNeedsPairs := h.hitNeedsPairs
      overflowIsFull := h.overflowIsFull
      firstInFile := h.firstInFile }

/-- Every command keeps the invariants. -/
theorem commandStep_reachable (i : Instr) {r : Registers} (h : r.Reachable) :
    (commandStep i r).1.Reachable := by
  cases i with
  | clr => exact reachable_reset
  | start channels width => exact startStep_reachable channels width r
  | data d => exact dataStep_reachable d h
  | endFile => exact endStep_reachable h

/-- Settles O42. -/
theorem resetStateIsReachable : Obligations.ResetStateIsReachable := reachable_reset

/-- Settles O43: a step is a reset, a command or a quiet edge, and each of them keeps the invariants. -/
theorem everyStepKeepsTheInvariants : Obligations.EveryStepKeepsTheInvariants := by
  rintro s t ⟨hs, hr⟩ h
  refine ⟨step_keeps_resetSeen hs h, ?_⟩
  obtain ⟨-, rfl⟩ | ⟨i, -, -, rfl⟩ | ⟨-, -, rfl⟩ := step_next_cases_of_reset hs h
  · exact reachable_reset
  · exact commandStep_reachable i hr
  · exact hr

/-- What every step keeps, every run keeps. -/
theorem core_run_keeps {P : State → Prop} (hstep : ∀ s t, P s → step s = .next t → P t) (n : Nat)
    {s t : State} (hs : P s) (h : Host.Core.run Sys2Proof.core n s = .next t) : P t := by
  induction n generalizing s with
  | zero => cases h; exact hs
  | succ n ih =>
    obtain ⟨u, hu, hrun⟩ := core_run_succ_next h
    exact ih (hstep s u hs hu) hrun

/-- Settles O44: the reset edge reaches `S0` from whatever state, and the steps after it keep the
invariants. -/
theorem invariantsHoldFromTheFirstResetOn : Obligations.InvariantsHoldFromTheFirstResetOn := by
  intro s t n hr h
  obtain ⟨u, hu, hrun⟩ := core_run_succ_next h
  obtain rfl : s.popPort.afterReset = u := by
    rw [step_of_rst hr] at hu
    injection hu
  obtain ⟨hseen, hreach⟩ :=
    core_run_keeps everyStepKeepsTheInvariants n ⟨rfl, reachable_reset⟩ hrun
  exact ⟨hreach, hseen⟩

/-! ## A file cut into samples and pairs (R60, R105, R110, R121) -/

/-- The bytes of a buffer that complete no sample (R110): what `samplesOf` leaves over. -/
def leftoverOf (w24 : Bool) (bytes : List Byte) : List Byte :=
  match w24, bytes with
  | false, _ :: _ :: rest => leftoverOf false rest
  | true, _ :: _ :: _ :: rest => leftoverOf true rest
  | _, rest => rest

/-- Every sample has a byte (R60). -/
theorem bytesPerSample_pos (w24 : Bool) : 0 < bytesPerSample w24 := by cases w24 <;> decide

/-- The samples of a longer file: the bytes left over stand in front of what comes next. -/
theorem samplesOf_append (w24 : Bool) (a b : List Byte) :
    samplesOf w24 (a ++ b) = samplesOf w24 a ++ samplesOf w24 (leftoverOf w24 a ++ b) := by
  induction w24, a using samplesOf.induct with
  | case1 d0 d1 rest ih => simpa [samplesOf, leftoverOf] using ih
  | case2 d0 d1 d2 rest ih => simpa [samplesOf, leftoverOf] using ih
  | case3 w24 a h16 h24 => simp [samplesOf, leftoverOf]

/-- The bytes left over of a longer file. -/
theorem leftoverOf_append (w24 : Bool) (a b : List Byte) :
    leftoverOf w24 (a ++ b) = leftoverOf w24 (leftoverOf w24 a ++ b) := by
  induction w24, a using samplesOf.induct with
  | case1 d0 d1 rest ih => simpa [leftoverOf] using ih
  | case2 d0 d1 d2 rest ih => simpa [leftoverOf] using ih
  | case3 w24 a h16 h24 => simp [leftoverOf]

/-- Bytes from which no sample can be cut are fewer than a sample has (R60). -/
theorem length_lt_bytesPerSample {w24 : Bool} {bytes : List Byte}
    (h16 : ∀ d0 d1 rest, w24 = false → bytes = d0 :: d1 :: rest → False)
    (h24 : ∀ d0 d1 d2 rest, w24 = true → bytes = d0 :: d1 :: d2 :: rest → False) :
    bytes.length < bytesPerSample w24 := by
  match w24, bytes with
  | false, [] | false, [_] | true, [] | true, [_] | true, [_, _] => simp [bytesPerSample]
  | false, d0 :: d1 :: rest => exact (h16 d0 d1 rest rfl rfl).elim
  | true, d0 :: d1 :: d2 :: rest => exact (h24 d0 d1 d2 rest rfl rfl).elim

/-- A file has one sample for every `B` bytes (R60). -/
theorem samplesOf_length (w24 : Bool) (bytes : List Byte) :
    (samplesOf w24 bytes).length = bytes.length / bytesPerSample w24 := by
  induction w24, bytes using samplesOf.induct with
  | case1 d0 d1 rest ih => simp [samplesOf, ih, bytesPerSample]; omega
  | case2 d0 d1 d2 rest ih => simp [samplesOf, ih, bytesPerSample]; omega
  | case3 w24 a h16 h24 =>
    simp [samplesOf, Nat.div_eq_of_lt (length_lt_bytesPerSample h16 h24)]

/-- The bytes left over are as many as do not fill a sample (R60). -/
theorem leftoverOf_length (w24 : Bool) (bytes : List Byte) :
    (leftoverOf w24 bytes).length = bytes.length % bytesPerSample w24 := by
  induction w24, bytes using samplesOf.induct with
  | case1 d0 d1 rest ih => simp [leftoverOf, ih, bytesPerSample]; omega
  | case2 d0 d1 d2 rest ih => simp [leftoverOf, ih, bytesPerSample]; omega
  | case3 w24 a h16 h24 =>
    simp [leftoverOf, Nat.mod_eq_of_lt (length_lt_bytesPerSample h16 h24)]

/-- A whole number of pairs stands apart from what comes next (R121). -/
theorem pairsOf_append {a : List Word} (h : a.length % 2 = 0) (b : List Word) :
    pairsOf (a ++ b) = pairsOf a ++ pairsOf b := by
  induction a using pairsOf.induct with
  | case1 l r rest ih => simpa [pairsOf] using ih (by simp at h; omega)
  | case2 a hne =>
    match a with
    | [] => rfl
    | [_] => simp at h
    | l :: r :: rest => exact (hne l r rest rfl).elim

/-- A plane takes one bit for every new pair. -/
theorem planeOf_append (k : Lane) (a b : List (Word × Word)) :
    planeOf k (a ++ b) = planeOf k a ++ planeOf k b := List.map_append

/-- The lowest bit after a right shift is the bit shifted to it (R8). -/
theorem asr_getLsbD_zero (v : Word) {p : Nat} (hp : p < 32) : (asr v p).getLsbD 0 = v.getLsbD p := by
  rw [BitVec.getLsbD_sshiftRight]
  simp [hp]

/-- The bit of a plane for one pair is the plane bit of its pair step (R122, R123). -/
theorem planeOf_singleton (k : Lane) (l r : Word) : planeOf k [(l, r)] = [(planeBits l r)[k]] := by
  have hk : Config.planeLo + (k : Nat) < 32 := by simp only [Config.planeLo]; omega
  simp only [planeOf, List.map_cons, List.map_nil, asr_getLsbD_zero _ hk, BitVec.getLsbD_xor,
    Fin.getElem_fin, planeBits_getElem]

/-- The canonical sample of two bytes is the one the whole-file algorithm shifts into place (R105). -/
theorem canonical16_eq_lsl (d0 d1 : Byte) :
    canonical16 d0 d1 = lsl ((raw16 d0 d1).signExtend 32) 16 := by
  refine BitVec.eq_of_getLsbD_eq fun j hj => ?_
  rw [canonical16_getLsbD]
  simp only [BitVec.getLsbD_shiftLeft, BitVec.getLsbD_signExtend]
  grind

/-- The canonical sample of three bytes is the one the whole-file algorithm shifts into place (R105). -/
theorem canonical24_eq_lsl (d0 d1 d2 : Byte) :
    canonical24 d0 d1 d2 = lsl ((raw24 d0 d1 d2).signExtend 32) 8 := by
  refine BitVec.eq_of_getLsbD_eq fun j hj => ?_
  rw [canonical24_getLsbD]
  simp only [BitVec.getLsbD_shiftLeft, BitVec.getLsbD_signExtend]
  grind

/-! ## The registers against the samples read so far (R110, R126, R137) -/

/-- What the registers hold after a list of complete samples since START. -/
structure Registers.HoldsSamples (r : Registers) (samples : List Word) : Prop where
  /-- A left sample waits after an odd number of samples (R27). -/
  ch : r.ch = decide (samples.length % 2 = 1)
  /-- It is the newest sample (R28). -/
  left : r.ch = true → samples.getLast? = some r.left
  /-- The pair count, saturated (R30). -/
  npairs : r.npairs.toNat = sat32 (samples.length / 2)
  /-- Whether the count is lost (R31). -/
  ovf : r.ovf = decide (2 ^ 32 - 1 < samples.length / 2)
  /-- The newest bits of every plane (R29). -/
  win : ∀ k : Lane, r.win[k] = windowOf (planeOf k (pairsOf samples))

/-- Nothing has been read when START opens the file. -/
theorem openFile_holdsSamples (w24 : Bool) : (Registers.reset.openFile w24).HoldsSamples [] where
  ch := rfl
  left h := by simp at h
  npairs := rfl
  ovf := rfl
  win k := by simp [pairsOf, planeOf]

/-- The registers of the current sample's bytes say nothing of the complete samples. -/
theorem Registers.HoldsSamples.with_bytes {r : Registers} {samples : List Word}
    (h : r.HoldsSamples samples) (bidx : BitVec 2) (b0 b1 : Byte) :
    { r with bidx := bidx, b0 := b0, b1 := b1 }.HoldsSamples samples :=
  ⟨h.ch, h.left, h.npairs, h.ovf, h.win⟩

/-- Saturation can wait for the next pair (R126). -/
theorem sat32_succ (n : Nat) : sat32 (sat32 n + 1) = sat32 (n + 1) := by
  unfold sat32
  omega

/-- `OVF` is set by the first pair that the count cannot hold (R31, R126). -/
theorem nextOverflow_of_count {npairs : Word} {n : Nat} (h : npairs.toNat = sat32 n) :
    nextOverflow npairs (decide (2 ^ 32 - 1 < n)) = decide (2 ^ 32 - 1 < n + 1) := by
  have hmax : npairs = Config.countMax ↔ 2 ^ 32 - 1 ≤ n := by
    rw [← BitVec.toNat_inj, h]
    simp [sat32, Config.countMax]
  rw [Bool.eq_iff_iff]
  simp only [nextOverflow, Bool.or_eq_true, decide_eq_true_eq, beq_iff_eq, hmax]
  omega

/-- A left sample waits and adds no pair (R109). -/
theorem takeLeft_holdsSamples {r : Registers} {samples : List Word} (h : r.HoldsSamples samples)
    (hc : r.ch = false) (c : Word) :
    { r with left := c, ch := true }.HoldsSamples (samples ++ [c]) := by
  have heven : samples.length % 2 = 0 := by
    have := h.ch
    simp [hc] at this
    exact this
  have hpairs : (samples ++ [c]).length / 2 = samples.length / 2 := by simp; omega
  exact {
    ch := by simp; omega
    left := fun _ => by simp
    npairs := by rw [hpairs]; exact h.npairs
    ovf := by rw [hpairs]; exact h.ovf
    win := fun k => by simpa [pairsOf_append heven, pairsOf] using h.win k }

/-- A right sample makes a pair with the waiting left one (R109, R120). -/
theorem takeRight_holdsSamples {r : Registers} {samples : List Word} (h : r.HoldsSamples samples)
    (hc : r.ch = true) (c : Word) :
    (pairStep r.left c { r with ch := false }).1.HoldsSamples (samples ++ [c]) := by
  obtain ⟨front, rfl⟩ := List.getLast?_eq_some_iff.1 (h.left hc)
  have heven : front.length % 2 = 0 := by
    have := h.ch
    simp [hc] at this
    omega
  have hold : pairsOf (front ++ [r.left]) = pairsOf front := by
    simp [pairsOf_append heven, pairsOf]
  have hnew : pairsOf (front ++ [r.left] ++ [c]) = pairsOf front ++ [(r.left, c)] := by
    simp [pairsOf_append heven, pairsOf]
  have hpairs : (front ++ [r.left] ++ [c]).length / 2 = (front ++ [r.left]).length / 2 + 1 := by
    simp; omega
  rw [pairStep_regs]
  exact {
    ch := by simp; omega
    left := nofun
    npairs := by rw [hpairs, nextCount_toNat, h.npairs, sat32_succ]
    ovf := by
      rw [hpairs, ← nextOverflow_of_count h.npairs, ← h.ovf]
    win := fun k => by
      have hw := h.win k
      rw [hold] at hw
      simp only [Fin.getElem_fin] at hw ⊢
      rw [hnew, planeOf_append, planeOf_singleton, windowOf_concat, ← hw, shiftWindows_getElem]
      rfl }

/-! ## The registers against the bytes read so far (R60, R100, R102) -/

/-- The bytes of the current sample that have arrived: as many of `B0`, `B1` as `BIDX` counts
(R24, R25, R26). -/
def Registers.pendingBytes (r : Registers) : List Byte := [r.b0, r.b1].take r.bidx.toNat

/-- What the registers of an open file hold after a list of bytes since START. -/
structure Registers.HoldsBytes (r : Registers) (w24 : Bool) (bytes : List Byte) : Prop where
  /-- The file is open. -/
  state : r.state = .run
  /-- Its width (R23). -/
  width : r.w24 = w24
  /-- The current sample is not complete (R24). -/
  incomplete : r.bidx.toNat < bytesPerSample w24
  /-- Its bytes are those left over (R110). -/
  pending : leftoverOf w24 bytes = r.pendingBytes
  /-- The complete samples (R110, R126, R137). -/
  samples : r.HoldsSamples (samplesOf w24 bytes)

/-- START opens a file of which no byte has been read. -/
theorem openFile_holdsBytes (w24 : Bool) : (Registers.reset.openFile w24).HoldsBytes w24 [] where
  state := rfl
  width := rfl
  incomplete := bytesPerSample_pos w24
  pending := by cases w24 <;> rfl
  samples := by cases w24 <;> exact openFile_holdsSamples _

/-- A byte that is not the last of its sample joins the pending ones (R102): still no sample. -/
theorem storeByte_pending {r : Registers} {d : Byte} (hb : r.bidx.toNat < bytesPerSample r.w24)
    (hl : lastByte r.w24 r.bidx = false) :
    (r.storeByte d).bidx.toNat < bytesPerSample r.w24 ∧
    samplesOf r.w24 (r.pendingBytes ++ [d]) = [] ∧
    leftoverOf r.w24 (r.pendingBytes ++ [d]) = (r.storeByte d).pendingBytes := by
  have hcases : r.bidx = 0#2 ∨ r.w24 = true ∧ r.bidx = 1#2 := by
    generalize r.bidx = bidx at hb hl ⊢
    generalize r.w24 = w24 at hb hl ⊢
    revert w24 bidx
    decide
  obtain hb0 | ⟨hw, hb1⟩ := hcases
  · cases hw : r.w24 <;>
      simp [Registers.storeByte, Registers.pendingBytes, samplesOf, leftoverOf, bytesPerSample, hb0]
  · simp [Registers.storeByte, Registers.pendingBytes, samplesOf, leftoverOf, bytesPerSample, hw, hb1]

/-- The last byte of a sample makes the canonical one of it and the pending ones (R100, R105): nothing
is left over. -/
theorem completedSample_of_pending {r : Registers} (d : Byte) (hl : lastByte r.w24 r.bidx = true) :
    samplesOf r.w24 (r.pendingBytes ++ [d]) = [completedSample r d] ∧
    leftoverOf r.w24 (r.pendingBytes ++ [d]) = [] := by
  obtain ⟨hw, hb⟩ | ⟨hw, hb⟩ := (lastByte_iff r.w24 r.bidx).1 hl
  · simp [Registers.pendingBytes, samplesOf, leftoverOf, completedSample, canonical16_eq_lsl, hw, hb]
  · simp [Registers.pendingBytes, samplesOf, leftoverOf, completedSample, canonical24_eq_lsl, hw, hb]

/-- The byte that completes a sample: nothing is pending after it, and the file has one sample more. -/
theorem Registers.HoldsBytes.of_sample {r r' : Registers} {w24 : Bool} {bytes : List Byte} {d : Byte}
    (h : r.HoldsBytes w24 bytes) (hl : lastByte r.w24 r.bidx = true) (hrun : r'.state = .run)
    (hw : r'.w24 = w24) (hb : r'.bidx = 0#2)
    (hs : r'.HoldsSamples (samplesOf w24 bytes ++ [completedSample r d])) :
    r'.HoldsBytes w24 (bytes ++ [d]) := by
  obtain ⟨hone, hnil⟩ := completedSample_of_pending d hl
  rw [h.width] at hone hnil
  exact {
    state := hrun
    width := hw
    incomplete := by rw [hb]; exact bytesPerSample_pos w24
    pending := by rw [leftoverOf_append, h.pending, hnil, Registers.pendingBytes, hb]; rfl
    samples := by rw [samplesOf_append, h.pending, hone]; exact hs }

/-- A byte that completes no sample: it is pending after it, and the samples are the same. -/
theorem storeByte_holdsBytes {r : Registers} {w24 : Bool} {bytes : List Byte} (d : Byte)
    (h : r.HoldsBytes w24 bytes) (hl : lastByte r.w24 r.bidx = false) :
    (r.storeByte d).HoldsBytes w24 (bytes ++ [d]) := by
  obtain ⟨hinner, hnone, hstore⟩ := storeByte_pending (d := d) (h.width ▸ h.incomplete) hl
  rw [h.width] at hinner hnone hstore
  exact {
    state := by rw [Registers.storeByte_frame]; exact h.state
    width := by rw [Registers.storeByte_frame]; exact h.width
    incomplete := hinner
    pending := by rw [leftoverOf_append, h.pending, hstore]
    samples := by
      rw [samplesOf_append, h.pending, hnone, List.append_nil, Registers.storeByte_frame]
      exact h.samples.with_bytes _ _ _ }

/-- One DATA command reads one byte more of the file. -/
theorem dataStep_holdsBytes {r : Registers} {w24 : Bool} {bytes : List Byte}
    (h : r.HoldsBytes w24 bytes) (d : Byte) : (dataStep d r).1.HoldsBytes w24 (bytes ++ [d]) := by
  have hcut : { r with bidx := 0#2 }.HoldsSamples (samplesOf w24 bytes) := h.samples.with_bytes _ _ _
  obtain ⟨hs, -⟩ | ⟨-, hl, hd⟩ | ⟨-, hl, hc, hd⟩ | ⟨-, hl, hc, hd⟩ := dataStep_cases d r
  · exact absurd h.state hs
  · rw [hd]
    exact storeByte_holdsBytes d h hl
  · rw [hd]
    exact h.of_sample hl h.state h.width rfl (takeLeft_holdsSamples hcut hc _)
  · rw [hd]
    exact h.of_sample hl h.state h.width rfl (takeRight_holdsSamples hcut hc _)

/-- A sequence of DATA commands reads its bytes, after whatever was read before. -/
theorem execAll_data_holdsBytes {s : State} {w24 : Bool} {before : List Byte}
    (h : s.regs.HoldsBytes w24 before) (bytes : List Byte) :
    ∃ t, execAll (bytes.map .data) s = .next t ∧ t.regs.HoldsBytes w24 (before ++ bytes) := by
  induction bytes generalizing s before with
  | nil => exact ⟨s, rfl, by simpa using h⟩
  | cons d rest ih =>
    obtain ⟨t, ht, hold⟩ := ih (s := s.commit (dataStep d s.regs)) (dataStep_holdsBytes h d)
    refine ⟨t, ?_, by simpa using hold⟩
    simp only [List.map_cons, execAll, exec_eq_commit]
    exact ht

/-- START with a good descriptor opens the file (R160). -/
theorem startStep_good (w24 : Bool) (r : Registers) :
    startStep 2 (if w24 then 24 else 16) r = (Registers.reset.openFile w24, .silent) := by
  cases w24 <;> rfl

/-- START with a good descriptor and then any bytes: the registers hold the file so far, from every
state. -/
theorem execAll_file_holdsBytes (s : State) (w24 : Bool) (bytes : List Byte) :
    ∃ t, execAll (.start 2 (if w24 then 24 else 16) :: bytes.map .data) s = .next t ∧
      t.regs.HoldsBytes w24 bytes := by
  have hopen : (s.commit (startStep 2 (if w24 then 24 else 16) s.regs)).regs.HoldsBytes w24 [] := by
    rw [startStep_good]
    exact openFile_holdsBytes w24
  obtain ⟨t, ht, hold⟩ := execAll_data_holdsBytes hopen bytes
  refine ⟨t, ?_, by simpa using hold⟩
  simp only [execAll, exec_eq_commit]
  exact ht

/-- `BIDX` counts the bytes left over (R24, R60). -/
theorem Registers.HoldsBytes.bidx_eq {r : Registers} {w24 : Bool} {bytes : List Byte}
    (h : r.HoldsBytes w24 bytes) : r.bidx.toNat = bytes.length % bytesPerSample w24 := by
  have hlt := h.incomplete
  have hle : bytesPerSample w24 ≤ 3 := by cases w24 <;> decide
  rw [← leftoverOf_length, h.pending, Registers.pendingBytes, List.length_take]
  simp only [List.length_cons, List.length_nil]
  omega

/-- Settles O45: the registers hold the file so far, and it has one sample for every `B` bytes. -/
theorem registersHoldTheFileSoFar : Obligations.RegistersHoldTheFileSoFar := by
  intro s w24 bytes
  obtain ⟨t, ht, hold⟩ := execAll_file_holdsBytes s w24 bytes
  obtain ⟨hch, -, hnpairs, hovf, hwin⟩ := hold.samples
  rw [samplesOf_length] at hch hnpairs hovf
  exact ⟨t, ht, hold.state, hold.width, hold.bidx_eq, hch, hnpairs, hovf, hwin⟩

end Sys2Proof.Machine

/-! PROOFS. The order of commands (spec/20_memory.md): the registers depend on the accepted commands and
their order only, whatever quiet edges lie between them. -/

namespace Sys2Proof.Machine

/-! ## The registers after a sequence of commands (R71) -/

/-- The registers after commands that take effect one after the other (R71). -/
def commandsStep (is : List Instr) (r : Registers) : Registers :=
  is.foldl (fun r i => (commandStep i r).1) r

/-- One sequence after another. -/
theorem commandsStep_append (a b : List Instr) (r : Registers) :
    commandsStep (a ++ b) r = commandsStep b (commandsStep a r) :=
  List.foldl_append

/-- Executing a sequence of commands leaves the registers that the commands make of the first ones. -/
theorem execAll_regs (is : List Instr) (s : State) :
    ∃ u, execAll is s = .next u ∧ u.regs = commandsStep is s.regs := by
  induction is generalizing s with
  | nil => exact ⟨s, rfl, rfl⟩
  | cons i is ih =>
    simp only [execAll, exec_eq_commit]
    exact ih (s.commit (commandStep i s.regs))

/-! ## Edges against accepted commands (R74, R80, R222) -/

/-- The commands of an edge, none or one, come before those of later edges. -/
theorem acceptedAt_cons (p : PortInput) (edges : List PortInput) :
    acceptedAt (p :: edges) = p.accepted.toList ++ acceptedAt edges := by
  cases hi : p.accepted <;> simp [acceptedAt, hi]

/-- At the next edge the host drives the first entry of its list. -/
theorem State.port_of_inputs {s : State} {p : PortInput} {rest : List PortInput}
    (h : s.inputs = p :: rest) : s.port = p := by
  simp [State.port, h]

/-- One edge without reset, after a reset: it takes the head of the host's list, and its accepted
command, if there is one, is the only thing that moves the registers (R80, R222). -/
theorem step_of_inputs_cons {s : State} {p : PortInput} {rest : List PortInput}
    (hs : s.resetSeen = true) (hr : p.rst = false) (hin : s.inputs = p :: rest) :
    ∃ t, step s = .next t ∧ t.inputs = rest ∧ t.resetSeen = true ∧
      t.regs = commandsStep p.accepted.toList s.regs := by
  obtain rfl := State.port_of_inputs hin
  have htail : s.inputs.tail = rest := by rw [hin, List.tail_cons]
  cases hi : s.port.accepted with
  | none => exact ⟨_, step_of_idle hs hr hi, htail, hs, rfl⟩
  | some i =>
    exact ⟨_, (step_of_accepted hs hr hi).trans (exec_eq_commit i s.popPort), htail, hs, rfl⟩

/-- A run over edges without reset uses them up and leaves the registers their accepted commands make. -/
theorem core_run_edges {edges rest : List PortInput} {s : State} (hs : s.resetSeen = true)
    (hr : ∀ p ∈ edges, p.rst = false) (hin : s.inputs = edges ++ rest) :
    ∃ t, Host.Core.run Sys2Proof.core edges.length s = .next t ∧ t.inputs = rest ∧
      t.resetSeen = true ∧ t.regs = commandsStep (acceptedAt edges) s.regs := by
  induction edges generalizing s with
  | nil => exact ⟨s, rfl, hin, hs, rfl⟩
  | cons p edges ih =>
    obtain ⟨hp, hedges⟩ := List.forall_mem_cons.1 hr
    obtain ⟨m, hstep, hm_in, hm, hm_regs⟩ := step_of_inputs_cons hs hp hin
    obtain ⟨t, hrun, ht_in, ht, ht_regs⟩ := ih hm hedges hm_in
    refine ⟨t, (core_run_next hstep).trans hrun, ht_in, ht, ?_⟩
    rw [ht_regs, hm_regs, acceptedAt_cons, commandsStep_append]

/-- Settles O13: the run over the edges and the sequence of accepted commands both leave the registers
that the commands make of the first ones, and every edge is taken from the host's list. -/
theorem quietEdgesDoNotMatter : Obligations.QuietEdgesDoNotMatter := by
  intro s edges rest hs hr
  obtain ⟨t, hrun, hin, hseen, ht⟩ :=
    core_run_edges (s := { s with inputs := edges ++ rest }) hs hr rfl
  obtain ⟨u, hu, hregs⟩ := execAll_regs (acceptedAt edges) s
  exact ⟨t, u, hrun, hu, ht.trans hregs.symm, hin, hseen⟩

end Sys2Proof.Machine

/-! PROOFS. The encoding (spec/30_encoding.md): command words and their fields, the text form and the edges
it stands for, and what an accepted command, a reset edge and a quiet edge do; with it what a closed file
keeps (R87). -/

namespace Sys2Proof

/-! ## Words as an opcode and an operand (R81) -/

/-- The opcode of a word put together from its two parts. -/
@[simp] theorem op_append (c : BitVec 2) (a : BitVec 32) : CommandWord.op (c ++ a) = c :=
  BitVec.extractLsb'_append_eq_left

/-- The operand of a word put together from its two parts. -/
@[simp] theorem arg_append (c : BitVec 2) (a : BitVec 32) : CommandWord.arg (c ++ a) = a :=
  BitVec.extractLsb'_append_eq_right

/-- A word is its opcode and its operand. -/
theorem op_append_arg (w : CommandWord) : CommandWord.op w ++ CommandWord.arg w = w :=
  (BitVec.extractLsb'_append_extractLsb'_eq_extractLsb' rfl).trans BitVec.extractLsb'_eq_self

/-- An operand is its two 16-bit fields (R82, format S). -/
theorem halves_append (a : BitVec 32) : a.extractLsb' 16 16 ++ a.extractLsb' 0 16 = a :=
  (BitVec.extractLsb'_append_extractLsb'_eq_extractLsb' rfl).trans BitVec.extractLsb'_eq_self

/-- An operand is its 24 upper bits and its low byte (R82, format D). -/
theorem upper_append_lowByte (a : BitVec 32) : a.extractLsb' 8 24 ++ a.extractLsb' 0 8 = a :=
  (BitVec.extractLsb'_append_extractLsb'_eq_extractLsb' rfl).trans BitVec.extractLsb'_eq_self

/-! ## Words under the masks of R84 and R86 -/

/-- The mask of R84's rows keeps the opcode and clears the operand. -/
theorem and_opMask (w : CommandWord) : w &&& 0x300000000#34 = CommandWord.op w ++ 0#32 := by
  have hmask : 0x300000000#34 = BitVec.allOnes 2 ++ 0#32 := rfl
  conv_lhs => rw [← op_append_arg w, hmask]
  rw [BitVec.and_append, BitVec.and_allOnes, BitVec.and_zero]

/-- What is left of a DATA word without its reserved bits: the opcode and the low byte. -/
theorem and_dataMask (w : CommandWord) :
    w &&& 0x3000000FF#34 =
      CommandWord.op w ++ (0#24 ++ (CommandWord.arg w).extractLsb' 0 8) := by
  have hmask : 0x3000000FF#34 = BitVec.allOnes 2 ++ (0#24 ++ BitVec.allOnes 8) := rfl
  conv_lhs => rw [← op_append_arg w, ← upper_append_lowByte (CommandWord.arg w), hmask]
  rw [BitVec.and_append, BitVec.and_append, BitVec.and_allOnes, BitVec.and_allOnes, BitVec.and_zero]

/-- START has no reserved bit: its mask keeps the word. -/
theorem and_startMask (w : CommandWord) : w &&& 0x3FFFFFFFF#34 = w := BitVec.and_allOnes

/-- A word has a row's fixed bits exactly when it has the row's opcode (R84). -/
theorem and_opMask_eq_iff (w : CommandWord) (c : BitVec 2) :
    w &&& 0x300000000#34 = c ++ 0#32 ↔ CommandWord.op w = c := by
  rw [and_opMask, BitVec.append_left_inj]

/-- Words that agree under R84's mask have the same opcode. -/
theorem op_eq_of_and_opMask_eq {w v : CommandWord} (h : w &&& 0x300000000#34 = v &&& 0x300000000#34) :
    CommandWord.op w = CommandWord.op v := by
  rwa [and_opMask v, and_opMask_eq_iff] at h

/-- DATA words that agree outside the reserved bits have the same opcode and the same byte. -/
theorem op_and_byte_eq_of_and_dataMask_eq {w v : CommandWord}
    (h : w &&& 0x3000000FF#34 = v &&& 0x3000000FF#34) :
    CommandWord.op w = CommandWord.op v ∧
      (CommandWord.arg w).extractLsb' 0 8 = (CommandWord.arg v).extractLsb' 0 8 := by
  rw [and_dataMask, and_dataMask] at h
  have hop := congrArg CommandWord.op h
  have harg := congrArg CommandWord.arg h
  rw [op_append, op_append] at hop
  rw [arg_append, arg_append, BitVec.append_right_inj] at harg
  exact ⟨hop, harg⟩

/-! ## The decoder, one equivalence per command (R84, R85) -/

/-- The opcode of a command's row (R84). -/
def Instr.opcode : Instr → BitVec 2
  | .clr => 0#2
  | .start _ _ => 1#2
  | .data _ => 2#2
  | .endFile => 3#2

/-- Decoding keeps the opcode. -/
theorem opcode_decode (w : CommandWord) : (decode w).opcode = CommandWord.op w := by
  obtain ⟨hclr, hstart, hdata, hend⟩ := decode_of_op w
  obtain h | h | h | h := op_cases w
  · rw [hclr h, h, Instr.opcode]
  · rw [hstart h, h, Instr.opcode]
  · rw [hdata h, h, Instr.opcode]
  · rw [hend h, h, Instr.opcode]

/-- A word that decodes to a command has that command's opcode. -/
theorem op_of_decode_eq {w : CommandWord} {i : Instr} (h : decode w = i) :
    CommandWord.op w = i.opcode := by
  rw [← opcode_decode, h]

/-- A word is CLR exactly when its opcode is 0. -/
theorem decode_eq_clr_iff (w : CommandWord) : decode w = .clr ↔ CommandWord.op w = 0#2 := by
  obtain ⟨hclr, -, -, -⟩ := decode_of_op w
  exact ⟨op_of_decode_eq, hclr⟩

/-- A word is START of two numbers exactly when its opcode is 1 and its 16-bit fields are these. -/
theorem decode_eq_start_iff (w : CommandWord) (channels width : Nat) :
    decode w = .start channels width ↔ CommandWord.op w = 1#2 ∧
      ((CommandWord.arg w).extractLsb' 16 16).toNat = channels ∧
      ((CommandWord.arg w).extractLsb' 0 16).toNat = width := by
  obtain ⟨-, hstart, -, -⟩ := decode_of_op w
  constructor
  · intro h
    have hop : CommandWord.op w = 1#2 := op_of_decode_eq h
    exact ⟨hop, Instr.start.inj ((hstart hop).symm.trans h)⟩
  · rintro ⟨hop, rfl, rfl⟩
    exact hstart hop

/-- A word is DATA of a byte exactly when its opcode is 2 and its low byte is this one. -/
theorem decode_eq_data_iff (w : CommandWord) (byte : Byte) :
    decode w = .data byte ↔
      CommandWord.op w = 2#2 ∧ (CommandWord.arg w).extractLsb' 0 8 = byte := by
  obtain ⟨-, -, hdata, -⟩ := decode_of_op w
  constructor
  · intro h
    have hop : CommandWord.op w = 2#2 := op_of_decode_eq h
    exact ⟨hop, Instr.data.inj ((hdata hop).symm.trans h)⟩
  · rintro ⟨hop, rfl⟩
    exact hdata hop

/-- A word is END exactly when its opcode is 3. -/
theorem decode_eq_endFile_iff (w : CommandWord) : decode w = .endFile ↔ CommandWord.op w = 3#2 := by
  obtain ⟨-, -, -, hend⟩ := decode_of_op w
  exact ⟨op_of_decode_eq, hend⟩

/-! ## The fields as numbers (R83) -/

/-- `u(cmd[31:16])` is START's channel field. -/
theorem channels_toNat (w : CommandWord) :
    ((CommandWord.arg w).extractLsb' 16 16).toNat = w.toNat / 65536 % 65536 := by
  simp only [CommandWord.arg, BitVec.extractLsb'_toNat, Nat.shiftRight_eq_div_pow]
  omega

/-- `u(cmd[15:0])` is START's width field. -/
theorem width_toNat (w : CommandWord) :
    ((CommandWord.arg w).extractLsb' 0 16).toNat = w.toNat % 65536 := by
  simp only [CommandWord.arg, BitVec.extractLsb'_toNat, Nat.shiftRight_zero]
  omega

/-- `cmd[7:0]` is DATA's byte. -/
theorem byte_eq_ofNat (w : CommandWord) :
    (CommandWord.arg w).extractLsb' 0 8 = BitVec.ofNat 8 (w.toNat % 256) := by
  apply BitVec.eq_of_toNat_eq
  simp only [CommandWord.arg, BitVec.extractLsb'_toNat, Nat.shiftRight_zero, BitVec.toNat_ofNat]
  omega

/-! ## Encoding and decoding agree (R82 to R86, R90) -/

/-- Settles O1: the canonical word has its command's opcode, and in its fields the operands, which fit. -/
theorem decodeOfEncodeIsTheCommand : Obligations.DecodeOfEncodeIsTheCommand := by
  intro i hi
  cases i with
  | clr => exact (decode_eq_clr_iff _).2 (op_append _ _)
  | start channels width =>
    simp only [Instr.wellFormed, fitsField, Config.fieldRange, Bool.and_eq_true,
      decide_eq_true_eq] at hi
    obtain ⟨hc, hw⟩ := hi
    refine (decode_eq_start_iff _ _ _).2 ⟨op_append _ _, ?_, ?_⟩
    · rw [encode, arg_append, BitVec.extractLsb'_append_eq_left, BitVec.toNat_ofNat,
        Nat.mod_eq_of_lt hc]
    · rw [encode, arg_append, BitVec.extractLsb'_append_eq_right, BitVec.toNat_ofNat,
        Nat.mod_eq_of_lt hw]
  | data byte =>
    refine (decode_eq_data_iff _ _).2 ⟨op_append _ _, ?_⟩
    rw [encode, arg_append, BitVec.extractLsb'_append_eq_right]
  | endFile => exact (decode_eq_endFile_iff _).2 (op_append _ _)

/-- Every decoded command has operands that its format can carry (R83, R85). -/
theorem decode_wellFormed (w : CommandWord) : (decode w).wellFormed = true := by
  cases hw : decode w with
  | clr => rfl
  | start channels width =>
    obtain ⟨-, rfl, rfl⟩ := (decode_eq_start_iff w channels width).1 hw
    simp only [Instr.wellFormed, fitsField, Config.fieldRange, Bool.and_eq_true, decide_eq_true_eq]
    exact ⟨BitVec.isLt _, BitVec.isLt _⟩
  | data byte => rfl
  | endFile => rfl

/-- Settles O2: each command's canonical word is the word's opcode and fields with zeros between them,
which is what the mask of its format leaves. -/
theorem encodeOfDecodeClearsReservedBits : Obligations.EncodeOfDecodeClearsReservedBits := by
  intro w
  refine ⟨decode_wellFormed w, ?_⟩
  cases hw : decode w with
  | clr => exact ((and_opMask_eq_iff w _).2 ((decode_eq_clr_iff w).1 hw)).symm
  | start channels width =>
    obtain ⟨hop, rfl, rfl⟩ := (decode_eq_start_iff w channels width).1 hw
    dsimp only
    rw [and_startMask, encode, BitVec.ofNat_toNat, BitVec.ofNat_toNat, BitVec.setWidth_eq,
      BitVec.setWidth_eq, halves_append, ← hop, op_append_arg]
  | data byte =>
    obtain ⟨hop, rfl⟩ := (decode_eq_data_iff w byte).1 hw
    dsimp only
    rw [and_dataMask, encode, hop]
  | endFile => exact ((and_opMask_eq_iff w _).2 ((decode_eq_endFile_iff w).1 hw)).symm

/-- Settles O3: having the fixed bits of a row and being its command are both having its opcode. -/
theorem wordIsTheCommandOfItsRow : Obligations.WordIsTheCommandOfItsRow := by
  intro w
  refine ⟨?_, ?_, ?_, ?_⟩
  · exact (and_opMask_eq_iff w 0#2).trans (decode_eq_clr_iff w).symm
  · rw [decode_eq_start_iff, channels_toNat, width_toNat]
    exact (and_opMask_eq_iff w 1#2).trans (by simp)
  · rw [decode_eq_data_iff, byte_eq_ofNat]
    exact (and_opMask_eq_iff w 2#2).trans (by simp)
  · exact (and_opMask_eq_iff w 3#2).trans (decode_eq_endFile_iff w).symm

/-- Settles O5: the spelled words are the canonical words of these commands. -/
theorem spelledWordsDecodeAsWritten : Obligations.SpelledWordsDecodeAsWritten :=
  ⟨decodeOfEncodeIsTheCommand .clr rfl, decodeOfEncodeIsTheCommand (.start 2 16) rfl,
    decodeOfEncodeIsTheCommand (.start 2 24) rfl, decodeOfEncodeIsTheCommand (.data 0xAB#8) rfl,
    decodeOfEncodeIsTheCommand .endFile rfl⟩

end Sys2Proof

namespace Sys2Proof.Machine

/-! ## Reserved bits at the port (R86) -/

/-- Presenting a word has the effect of the command it decodes to, and nothing else of the word counts. -/
theorem step_present (s : State) (w : CommandWord) : step (s.present w) = s.accept (decode w) := rfl

/-- Words that decode alike have the same effect, in every state. -/
theorem step_present_eq_of_decode_eq {w v : CommandWord} (h : decode w = decode v) (s : State) :
    step (s.present w) = step (s.present v) := by
  rw [step_present, step_present, h]

/-- DATA words that differ in reserved bits only are the same command. -/
theorem decode_eq_of_data {w v : CommandWord} (hw : w &&& 0x300000000#34 = 0x200000000#34)
    (h : w &&& 0x3000000FF#34 = v &&& 0x3000000FF#34) : decode w = decode v := by
  have hop : CommandWord.op w = 2#2 := (and_opMask_eq_iff w 2#2).1 hw
  obtain ⟨hops, hbyte⟩ := op_and_byte_eq_of_and_dataMask_eq h
  rw [(decode_eq_data_iff w _).2 ⟨hop, hbyte⟩, (decode_eq_data_iff v _).2 ⟨hops ▸ hop, rfl⟩]

/-- Words of a command without operand that differ in reserved bits only are the same command. -/
theorem decode_eq_of_noOperand {w v : CommandWord}
    (hw : w &&& 0x300000000#34 = 0x000000000#34 ∨ w &&& 0x300000000#34 = 0x300000000#34)
    (h : w &&& 0x300000000#34 = v &&& 0x300000000#34) : decode w = decode v := by
  have hops := op_eq_of_and_opMask_eq h
  obtain hw | hw := hw
  · have hop : CommandWord.op w = 0#2 := (and_opMask_eq_iff w 0#2).1 hw
    rw [(decode_eq_clr_iff w).2 hop, (decode_eq_clr_iff v).2 (hops ▸ hop)]
  · have hop : CommandWord.op w = 3#2 := (and_opMask_eq_iff w 3#2).1 hw
    rw [(decode_eq_endFile_iff w).2 hop, (decode_eq_endFile_iff v).2 (hops ▸ hop)]

/-- The canonical word of DATA has its reserved bits 0. -/
theorem encode_data_reserved (b : Byte) : encode (.data b) &&& 0x0FFFFFF00#34 = 0#34 := by
  have hmask : 0x0FFFFFF00#34 = 0#2 ++ (BitVec.allOnes 24 ++ 0#8) := rfl
  rw [encode, hmask, BitVec.and_append, BitVec.and_append, BitVec.and_zero, BitVec.and_zero,
    BitVec.zero_and]
  rfl

/-- Settles O4: such words decode alike, and a step reads nothing of a word but what it decodes to. -/
theorem reservedBitsAreIgnored : Obligations.ReservedBitsAreIgnored := by
  refine ⟨fun w v hw h => ?_, fun w v hw h => ?_, encode_data_reserved, rfl, rfl⟩
  · exact ⟨decode_eq_of_data hw h, step_present_eq_of_decode_eq (decode_eq_of_data hw h)⟩
  · exact ⟨decode_eq_of_noOperand hw h, step_present_eq_of_decode_eq (decode_eq_of_noOperand hw h)⟩

/-! ## The DATA commands of a sample (R91, R103, R104) -/

/-- The two bytes of a left sample in a 16-bit file. -/
theorem commandsStep_left16 {r : Registers} (hs : r.state = .run) (hw : r.w24 = false)
    (hb : r.bidx = 0#2) (hc : r.ch = false) (d0 d1 : Byte) :
    commandsStep [.data d0, .data d1] r =
      { r with b0 := d0, bidx := 0#2, left := canonical16 d0 d1, ch := true } := by
  simp [commandsStep, commandStep, dataStep, lastByte, Registers.storeByte, takeSample,
    completedSample, hs, hw, hb, hc]

/-- The three bytes of a left sample in a 24-bit file. -/
theorem commandsStep_left24 {r : Registers} (hs : r.state = .run) (hw : r.w24 = true)
    (hb : r.bidx = 0#2) (hc : r.ch = false) (d0 d1 d2 : Byte) :
    commandsStep [.data d0, .data d1, .data d2] r =
      { r with b0 := d0, b1 := d1, bidx := 0#2, left := canonical24 d0 d1 d2, ch := true } := by
  simp [commandsStep, commandStep, dataStep, lastByte, Registers.storeByte, takeSample,
    completedSample, hs, hw, hb, hc]

/-- A 16-bit raw sample as a number, its first byte the least significant (R61). -/
theorem raw16_toNat (d0 d1 : Byte) : (raw16 d0 d1).toNat = d0.toNat + 256 * d1.toNat := by
  rw [raw16, append_toNat]
  omega

/-- A 24-bit raw sample as a number, its first byte the least significant (R61). -/
theorem raw24_toNat (d0 d1 d2 : Byte) :
    (raw24 d0 d1 d2).toNat = d0.toNat + 256 * d1.toNat + 65536 * d2.toNat := by
  have happend : (raw24 d0 d1 d2).toNat = _ := append_toNat d2 (raw16 d0 d1)
  rw [happend, raw16_toNat]
  omega

/-- A 16-bit number cut into its bytes, the low one first, is the raw sample of these bytes (R61). -/
theorem raw16_bytes_toNat {u : Nat} (hu : u < 65536) :
    (raw16 (BitVec.ofNat 8 (u % 256)) (BitVec.ofNat 8 (u / 256 % 256))).toNat = u := by
  simp only [raw16_toNat, BitVec.toNat_ofNat]
  omega

/-- A 24-bit number cut into its bytes, the low one first, is the raw sample of these bytes (R61). -/
theorem raw24_bytes_toNat {u : Nat} (hu : u < 16777216) :
    (raw24 (BitVec.ofNat 8 (u % 256)) (BitVec.ofNat 8 (u / 256 % 256))
      (BitVec.ofNat 8 (u / 65536 % 256))).toNat = u := by
  simp only [raw24_toNat, BitVec.toNat_ofNat]
  omega

/-- The bytes of `S16 v` make the canonical sample of v: v aligned to bit 31 (R103). -/
theorem canonical16_of_s16 (v : Int) :
    canonical16 (BitVec.ofNat 8 ((v % 65536).toNat % 256))
      (BitVec.ofNat 8 ((v % 65536).toNat / 256 % 256)) = BitVec.ofInt 32 (v * 65536) := by
  apply BitVec.eq_of_toNat_eq
  rw [canonical16_toNat, raw16_bytes_toNat (by omega), BitVec.toNat_ofInt]
  omega

/-- The bytes of `S24 v` make the canonical sample of v: v aligned to bit 31 (R104). -/
theorem canonical24_of_s24 (v : Int) :
    canonical24 (BitVec.ofNat 8 ((v % 16777216).toNat % 256))
      (BitVec.ofNat 8 ((v % 16777216).toNat / 256 % 256))
      (BitVec.ofNat 8 ((v % 16777216).toNat / 65536 % 256)) = BitVec.ofInt 32 (v * 256) := by
  apply BitVec.eq_of_toNat_eq
  rw [canonical24_toNat, raw24_bytes_toNat (by omega), BitVec.toNat_ofInt]
  omega

/-- The commands of `S16` depend on v modulo 2^16 only (R91). -/
theorem s16Commands_add (v : Int) : s16Commands (v + 65536) = s16Commands v := by
  simp only [s16Commands, Int.add_emod_right]

/-- The commands of `S24` depend on v modulo 2^24 only (R91). -/
theorem s24Commands_add (v : Int) : s24Commands (v + 16777216) = s24Commands v := by
  simp only [s24Commands, Int.add_emod_right]

/-- Settles O6: the commands of a sample line are the bytes of a left sample, and these make its
canonical one. -/
theorem textSamplesBecomeCanonicalSamples : Obligations.TextSamplesBecomeCanonicalSamples := by
  refine ⟨fun s v _ hs hw hb hc => ?_, fun s v _ hs hw hb hc => ?_,
    fun v _ => ⟨(s16Commands_add v).symm, (s24Commands_add v).symm⟩⟩
  · obtain ⟨t, ht, hregs⟩ := execAll_regs (s16Commands v) s
    refine ⟨t, ht, ?_⟩
    rw [hregs, s16Commands, commandsStep_left16 hs hw hb hc, canonical16_of_s16]
    exact ⟨rfl, rfl, rfl⟩
  · obtain ⟨t, ht, hregs⟩ := execAll_regs (s24Commands v) s
    refine ⟨t, ht, ?_⟩
    rw [hregs, s24Commands, commandsStep_left24 hs hw hb hc, canonical24_of_s24]
    exact ⟨rfl, rfl, rfl⟩

/-! ## The text form on the ports (R90 to R93) -/

/-- The edge that presents a well-formed command is one at which that command is accepted (R80). -/
theorem PortInput.accepted_command {i : Instr} (hi : i.wellFormed = true) :
    (PortInput.command i).accepted = some i :=
  congrArg some (decodeOfEncodeIsTheCommand i hi)

/-- Edges that present well-formed commands, one each, have these commands accepted in their order. -/
theorem acceptedAt_map_command {is : List Instr} (h : ∀ i ∈ is, i.wellFormed = true) :
    acceptedAt (is.map .command) = is := by
  induction is with
  | nil => rfl
  | cons i is ih =>
    obtain ⟨hi, his⟩ := List.forall_mem_cons.1 h
    rw [List.map_cons, acceptedAt_cons, PortInput.accepted_command hi, ih his]
    rfl

/-- Only a `START` line stands for a START (R90 to R92). -/
theorem HostLine.eq_start_of_mem_commands {l : HostLine} {c w : Nat}
    (h : .start c w ∈ l.commands) : l = .start c w := by
  cases l <;> simp [HostLine.commands, s16Commands, s24Commands] at h
  case start => simp [h]

/-- The commands of a line whose numbers are in range are well-formed: only START's could be otherwise. -/
theorem HostLine.commands_wellFormed {l : HostLine} (hl : l.inRange = true) :
    ∀ i ∈ l.commands, i.wellFormed = true := by
  intro i hi
  cases i with
  | clr => rfl
  | start c w =>
    obtain rfl := HostLine.eq_start_of_mem_commands hi
    exact hl
  | data b => rfl
  | endFile => rfl

/-- The edges of one line present its commands; `IDLE` and `RESET` present none (R93). -/
theorem acceptedAt_edges {l : HostLine} (hl : l.inRange = true) : acceptedAt l.edges = l.commands := by
  cases l with
  | idle n => exact List.filterMap_replicate_of_none rfl
  | reset => rfl
  | _ => exact acceptedAt_map_command (HostLine.commands_wellFormed hl)

/-- Settles O7: the accepted commands of a text are those of its lines, one line after the other. -/
theorem textPresentsItsCommands : Obligations.TextPresentsItsCommands := by
  intro lines hlines
  calc acceptedAt (hostEdges lines)
      = lines.flatMap fun l => acceptedAt l.edges := List.filterMap_flatMap
    _ = lines.flatMap HostLine.commands :=
        List.flatMap_congr fun l hl => acceptedAt_edges (hlines l hl)

/-! ## What a closed file keeps (R87, R101, R166) -/

/-- Outside RUN, DATA does nothing (R101). -/
theorem dataStep_of_not_run {r : Registers} (hr : r.state ≠ .run) (d : Byte) :
    dataStep d r = (r, .silent) := if_neg hr

/-- Outside RUN, END does nothing (R166). -/
theorem endStep_of_not_run {r : Registers} (hr : r.state ≠ .run) : endStep r = (r, .silent) :=
  if_neg hr

/-- Outside RUN a command other than CLR and START does nothing (R87). -/
theorem commandStep_of_not_run {i : Instr} (hi : commandDiscards i = false) {r : Registers}
    (hr : r.state ≠ .run) : commandStep i r = (r, .silent) := by
  cases i with
  | clr => cases hi
  | start channels width => cases hi
  | data d => exact dataStep_of_not_run hr d
  | endFile => exact endStep_of_not_run hr

/-- Outside RUN a step after a reset that does not discard the file keeps the registers and is silent. -/
theorem step_of_not_run {s t : State} (hs : s.resetSeen = true) (h : step s = .next t)
    (hrun : s.regs.state ≠ .run) (hd : s.port.discards = false) :
    t.regs = s.regs ∧ t.events = .silent := by
  obtain ⟨hr, -⟩ | ⟨i, hr, hi, rfl⟩ | ⟨-, -, rfl⟩ := step_next_cases_of_reset hs h
  · simp [PortInput.discards, hr] at hd
  · rw [PortInput.discards_of_accepted hr hi] at hd
    rw [commandStep_of_not_run hd hrun]
    exact ⟨rfl, rfl⟩
  · exact ⟨rfl, rfl⟩

/-- Settles O37: the registers are kept, and the level outputs are a function of them. -/
theorem closedFileIsHeldUntilDiscarded : Obligations.ClosedFileIsHeldUntilDiscarded := by
  intro s t hs h hrun hd
  obtain ⟨hregs, hevents⟩ := step_of_not_run hs h hrun hd
  exact ⟨hregs, congrArg levelOutputs hregs, hevents⟩

/-! ## The step at the port (R80, R210, R222) -/

/-- With `rst = 0` and `cmd_valid = 1` the word on the port is accepted (R80). -/
theorem PortInput.accepted_of_valid {p : PortInput} (hr : p.rst = false) (hv : p.cmdValid = true) :
    p.accepted = some (decode p.cmd) := by
  simp [PortInput.accepted, hr, hv]

/-- With `cmd_valid = 0` nothing is accepted (R80). -/
theorem PortInput.accepted_of_not_valid {p : PortInput} (hv : p.cmdValid = false) :
    p.accepted = none := by
  simp [PortInput.accepted, hv]

/-- Settles O8: an edge that accepts a command, a quiet edge and a reset edge, one rule each. -/
theorem stepRunsTheDecodedCommand : Obligations.StepRunsTheDecodedCommand := by
  refine ⟨fun s hs hr hv => ?_, fun s hs hr hv => ?_, fun s hr => ?_, fun s => ⟨rfl, rfl⟩⟩
  · exact step_of_accepted hs hr (PortInput.accepted_of_valid hr hv)
  · exact step_of_idle hs hr (PortInput.accepted_of_not_valid hv)
  · exact step_of_rst hr

end Sys2Proof.Machine

/-! PROOFS. The normalizer (spec/40_normalizer.md): canonical samples as numbers, what a DATA step does with
its byte, and the events of a whole file. -/

namespace Sys2Proof.Machine

/-! ## Canonical samples as signed numbers (R105, R106, R107) -/

/-- Zero bits appended on the right multiply the signed value by a power of two. -/
theorem append_zeros_toInt {w : Nat} (hw : 0 < w) (x : BitVec w) (n : Nat) :
    (x ++ 0#n).toInt = x.toInt * 2 ^ n := by
  have hw0 : ¬ w = 0 := by omega
  simp [BitVec.toInt_append, hw0, Int.mul_comm]

/-- Shifting the zero bits out again, arithmetically, gives the signed value back. -/
theorem asr_append_zeros_toInt {w : Nat} (hw : 0 < w) (x : BitVec w) (n : Nat) :
    (asr (x ++ 0#n) n).toInt = x.toInt := by
  rw [BitVec.toInt_sshiftRight, append_zeros_toInt hw, Int.shiftRight_eq_div_pow]
  exact Int.mul_ediv_cancel _ (by positivity)

/-- Zero bits appended on the right leave the sign bit on top. -/
theorem append_zeros_msb {w : Nat} (hw : 0 < w) (x : BitVec w) (n : Nat) :
    (x ++ 0#n).msb = x.msb := by
  have hw0 : ¬ w = 0 := by omega
  simp [BitVec.msb_append, hw0]

/-- Settles O23: a canonical sample is the raw one with zero bits appended, so its signed value is a
multiple of the raw one's. -/
theorem canonicalSampleIsShiftedSignExtension : Obligations.CanonicalSampleIsShiftedSignExtension :=
  ⟨fun d0 d1 => ⟨canonical16_eq_lsl d0 d1, rfl,
    append_zeros_toInt (by decide) (raw16 d0 d1) 16, raw16_toNat d0 d1⟩,
   fun d0 d1 d2 => ⟨canonical24_eq_lsl d0 d1 d2, rfl,
    append_zeros_toInt (by decide) (raw24 d0 d1 d2) 8, raw24_toNat d0 d1 d2⟩⟩

/-- Settles O24: the appended zero bits are the low ones, the sign bit stays on top, and the arithmetic
shift drops what was appended. -/
theorem normalizingRoundTrips : Obligations.NormalizingRoundTrips :=
  ⟨fun d0 d1 => ⟨asr_append_zeros_toInt (by decide) (raw16 d0 d1) 16,
    append_zeros_msb (by decide) (raw16 d0 d1) 16,
    BitVec.extractLsb'_append_eq_right⟩,
   fun d0 d1 d2 => ⟨asr_append_zeros_toInt (by decide) (raw24 d0 d1 d2) 8,
    append_zeros_msb (by decide) (raw24 d0 d1 d2) 8,
    BitVec.extractLsb'_append_eq_right⟩⟩

/-! ## One DATA step (R100 to R104, R108, R109) -/

/-- Executing DATA commits its step. -/
theorem exec_data_of_step {d : Byte} {s : State} {p : Registers × Events} (h : dataStep d s.regs = p) :
    exec (.data d) s = .next (s.commit p) :=
  h ▸ exec_eq_commit (.data d) s

/-- In RUN a byte that does not complete a sample is stored (R102). -/
theorem dataStep_of_inner {r : Registers} (hs : r.state = .run) (hl : lastByte r.w24 r.bidx = false)
    (d : Byte) : dataStep d r = (r.storeByte d, .silent) := by
  simp [dataStep, hs, hl]

/-- In RUN a byte that completes a sample with `CH = 0` makes the waiting left sample (R109). -/
theorem dataStep_of_left {r : Registers} (hs : r.state = .run) (hl : lastByte r.w24 r.bidx = true)
    (hc : r.ch = false) (d : Byte) :
    dataStep d r =
      ({ r with bidx := 0#2, left := completedSample r d, ch := true },
       ⟨some ⟨false, completedSample r d⟩, none⟩) := by
  simp [dataStep, takeSample, hs, hl, hc]

/-- The first byte of a sample goes to `B0` (R102). -/
theorem Registers.storeByte_of_first {r : Registers} (hb : r.bidx = 0#2) (d : Byte) :
    r.storeByte d = { r with b0 := d, bidx := 1#2 } := by
  simp [Registers.storeByte, hb]

/-- A later byte of a sample goes to `B1` (R102). -/
theorem Registers.storeByte_of_later {r : Registers} (hb : r.bidx ≠ 0#2) (d : Byte) :
    r.storeByte d = { r with b1 := d, bidx := r.bidx + 1#2 } :=
  if_neg hb

/-- The sample that the second byte of a 16-bit file completes (R103). -/
theorem completedSample_of_w16 {r : Registers} (hw : r.w24 = false) (d : Byte) :
    completedSample r d = d ++ r.b0 ++ 0#16 := by
  simp [completedSample, canonical16, raw16, hw]

/-- The sample that the third byte of a 24-bit file completes (R104). -/
theorem completedSample_of_w24 {r : Registers} (hw : r.w24 = true) (d : Byte) :
    completedSample r d = d ++ r.b1 ++ r.b0 ++ 0#8 := by
  simp [completedSample, canonical24, raw24_eq, hw]

/-- Settles O19: outside RUN the step commits the registers it found. -/
theorem dataOutsideRunIsIgnored : Obligations.DataOutsideRunIsIgnored := fun _ d hs =>
  exec_data_of_step (dataStep_of_not_run hs d)

/-- Settles O20: the byte completes no sample, so it is stored, and where is decided by `BIDX` alone. -/
theorem dataStoresAnInnerByte : Obligations.DataStoresAnInnerByte := by
  intro s d hs h16 h24
  have hl : lastByte s.regs.w24 s.regs.bidx = false := by
    rw [← Bool.not_eq_true, lastByte_iff]
    exact not_or.2 ⟨h16, h24⟩
  refine ⟨fun hb => ?_, fun hb => ?_⟩ <;> rw [exec_data_of_step (dataStep_of_inner hs hl d)]
  · rw [Registers.storeByte_of_first hb]
    rfl
  · rw [Registers.storeByte_of_later hb]
    rfl

/-- Settles O21: the byte is the last of its sample in either width, and the completed left sample is
the bytes with zero bits appended. -/
theorem dataCompletesALeftSample : Obligations.DataCompletesALeftSample := by
  refine ⟨fun s d hs hc hw hb => ?_, fun s d hs hc hw hb => ?_⟩
  · have hl := (lastByte_iff s.regs.w24 s.regs.bidx).2 (.inl ⟨hw, hb⟩)
    rw [exec_data_of_step (dataStep_of_left hs hl hc d), completedSample_of_w16 hw]
    rfl
  · have hl := (lastByte_iff s.regs.w24 s.regs.bidx).2 (.inr ⟨hw, hb⟩)
    rw [exec_data_of_step (dataStep_of_left hs hl hc d), completedSample_of_w24 hw]
    rfl

/-! ## The events of a file (R108, R110, R127) -/

/-- A byte that completes no sample adds none to the file (R110). -/
theorem Registers.HoldsBytes.samplesOf_inner {r : Registers} {w24 : Bool} {bytes : List Byte}
    (h : r.HoldsBytes w24 bytes) (hl : lastByte r.w24 r.bidx = false) (d : Byte) :
    samplesOf w24 (bytes ++ [d]) = samplesOf w24 bytes := by
  obtain ⟨-, hnone, -⟩ := storeByte_pending (d := d) (h.width ▸ h.incomplete) hl
  rw [h.width] at hnone
  rw [samplesOf_append, h.pending, hnone, List.append_nil]

/-- A byte that completes a sample adds it to the file (R105, R110). -/
theorem Registers.HoldsBytes.samplesOf_last {r : Registers} {w24 : Bool} {bytes : List Byte}
    (h : r.HoldsBytes w24 bytes) (hl : lastByte r.w24 r.bidx = true) (d : Byte) :
    samplesOf w24 (bytes ++ [d]) = samplesOf w24 bytes ++ [completedSample r d] := by
  obtain ⟨hone, -⟩ := completedSample_of_pending d hl
  rw [h.width] at hone
  rw [samplesOf_append, h.pending, hone]

/-- With `CH = 0` the samples so far are whole pairs (R27). -/
theorem Registers.HoldsSamples.even_of_left {r : Registers} {samples : List Word}
    (h : r.HoldsSamples samples) (hc : r.ch = false) : samples.length % 2 = 0 := by
  have hodd := h.ch
  rw [hc, eq_comm, decide_eq_false_iff_not] at hodd
  omega

/-- With `CH = 1` the samples so far are whole pairs and the left sample that waits in `LEFT`
(R27, R28). -/
theorem Registers.HoldsSamples.left_waits {r : Registers} {samples : List Word}
    (h : r.HoldsSamples samples) (hc : r.ch = true) :
    ∃ front, samples = front ++ [r.left] ∧ front.length % 2 = 0 := by
  obtain ⟨front, rfl⟩ := List.getLast?_eq_some_iff.1 (h.left hc)
  have hodd := h.ch
  rw [hc, eq_comm, decide_eq_true_eq, List.length_append, List.length_singleton] at hodd
  exact ⟨front, rfl, by omega⟩

/-- What a DATA command adds to the file and what it emits: nothing, a left sample after whole pairs, or
a right sample after the left one in `LEFT` (R108, R109). -/
theorem Registers.HoldsBytes.data_cases {r : Registers} {w24 : Bool} {bytes : List Byte}
    (h : r.HoldsBytes w24 bytes) (d : Byte) :
    (samplesOf w24 (bytes ++ [d]) = samplesOf w24 bytes ∧ (dataStep d r).2 = .silent) ∨
    (∃ c, (samplesOf w24 bytes).length % 2 = 0 ∧
      samplesOf w24 (bytes ++ [d]) = samplesOf w24 bytes ++ [c] ∧
      (dataStep d r).2 = ⟨some ⟨false, c⟩, none⟩) ∨
    (∃ front c, front.length % 2 = 0 ∧ samplesOf w24 bytes = front ++ [r.left] ∧
      samplesOf w24 (bytes ++ [d]) = front ++ [r.left, c] ∧
      (dataStep d r).2 =
        ⟨some ⟨true, c⟩, some (pairStep r.left c { r with bidx := 0#2, ch := false }).2⟩) := by
  obtain ⟨hs, -⟩ | ⟨-, hl, hd⟩ | ⟨-, hl, hc, hd⟩ | ⟨-, hl, hc, hd⟩ := dataStep_cases d r
  · exact absurd h.state hs
  · exact .inl ⟨h.samplesOf_inner hl d, by rw [hd]⟩
  · exact .inr (.inl ⟨_, h.samples.even_of_left hc, h.samplesOf_last hl d, by rw [hd]⟩)
  · obtain ⟨front, hfront, heven⟩ := h.samples.left_waits hc
    refine .inr (.inr ⟨front, completedSample r d, heven, hfront, ?_, by rw [hd]⟩)
    rw [h.samplesOf_last hl d, hfront, List.append_assoc, List.singleton_append]

/-- The sample events of a list of samples: left and right in turn (R108). -/
def sampleEvents (samples : List Word) : List NormEvent :=
  samples.mapIdx fun j c => ⟨decide (j % 2 = 1), c⟩

/-- One sample more is one event more, of the channel whose turn it is. -/
theorem sampleEvents_concat (samples : List Word) (c : Word) :
    sampleEvents (samples ++ [c]) =
      sampleEvents samples ++ [⟨decide (samples.length % 2 = 1), c⟩] :=
  List.mapIdx_concat

/-- One DATA command emits the sample event of the sample it completes (R108). -/
theorem Registers.HoldsBytes.data_norm {r : Registers} {w24 : Bool} {bytes : List Byte}
    (h : r.HoldsBytes w24 bytes) (d : Byte) :
    sampleEvents (samplesOf w24 (bytes ++ [d])) =
      sampleEvents (samplesOf w24 bytes) ++ (dataStep d r).2.norm.toList := by
  obtain ⟨hsame, he⟩ | ⟨c, heven, hnew, he⟩ | ⟨front, c, heven, hold, hnew, he⟩ := h.data_cases d
  · simp [hsame, he]
  · simp [hnew, he, sampleEvents_concat, heven]
  · have hodd : (front ++ [r.left]).length % 2 = 1 := by simp; omega
    rw [hnew, hold, he, List.append_cons, sampleEvents_concat, decide_eq_true hodd]
    rfl

/-- One DATA command emits the plane bits of the pair it completes (R122, R127). -/
theorem Registers.HoldsBytes.data_pair {r : Registers} {w24 : Bool} {bytes : List Byte}
    (h : r.HoldsBytes w24 bytes) (d : Byte) (k : Lane) :
    filePlane w24 (bytes ++ [d]) k =
      filePlane w24 bytes k ++ ((dataStep d r).2.pair.map fun p => p.bits[k]).toList := by
  unfold filePlane
  obtain ⟨hsame, he⟩ | ⟨c, heven, hnew, he⟩ | ⟨front, c, heven, hold, hnew, he⟩ := h.data_cases d
  · simp [hsame, he]
  · simp [hnew, he, pairsOf_append heven, pairsOf]
  · have hpair : pairsOf [r.left, c] = [(r.left, c)] := rfl
    have hwait : pairsOf [r.left] = [] := rfl
    rw [hnew, hold, he, pairsOf_append heven, pairsOf_append heven, hpair, hwait, List.append_nil,
      planeOf_append, planeOf_singleton, pairStep_event]
    rfl

/-- The events of a sequence of DATA commands: the first one's, then those from the state it leaves. -/
theorem eventsOf_data_cons (d : Byte) (bytes : List Byte) (s : State) :
    eventsOf ((d :: bytes).map .data) s =
      (dataStep d s.regs).2 :: eventsOf (bytes.map .data) (s.commit (dataStep d s.regs)) := rfl

/-- What every DATA command emits of a kind of event is what its byte adds to a list made of the file:
then the events of a sequence of DATA commands are what all its bytes add. -/
theorem eventsOf_data_of_step {α : Type} {w24 : Bool} {emitted : Events → Option α}
    {shown : List Byte → List α}
    (hstep : ∀ {r : Registers} {bytes : List Byte}, r.HoldsBytes w24 bytes → ∀ d,
      shown (bytes ++ [d]) = shown bytes ++ (emitted (dataStep d r).2).toList)
    {s : State} {before : List Byte} (h : s.regs.HoldsBytes w24 before) (bytes : List Byte) :
    shown (before ++ bytes) =
      shown before ++ (eventsOf (bytes.map .data) s).filterMap emitted := by
  induction bytes generalizing s before with
  | nil => simp [eventsOf]
  | cons d rest ih =>
    have hrest := ih (s := s.commit (dataStep d s.regs)) (dataStep_holdsBytes h d)
    rw [hstep h d, List.append_assoc, List.append_assoc, List.singleton_append] at hrest
    rw [hrest, eventsOf_data_cons, List.filterMap_cons]
    cases emitted (dataStep d s.regs).2 <;> rfl

/-- After a good START the registers hold a file of which no byte has been read (R160). -/
theorem holdsBytes_of_start {s t : State} {w24 : Bool}
    (h : exec (.start 2 (if w24 then 24 else 16)) s = .next t) : t.regs.HoldsBytes w24 [] := by
  obtain rfl := (exec_next_iff _ s t).1 h
  have hopen : commandStep (.start 2 (if w24 then 24 else 16)) s.regs = _ := startStep_good w24 s.regs
  rw [hopen]
  exact openFile_holdsBytes w24

/-- Settles O46: after START nothing has been read, and each byte adds to the file's samples and planes
what its DATA command emits. -/
theorem eventsShowTheWholeFile : Obligations.EventsShowTheWholeFile := by
  intro s t w24 bytes hstart
  have hopen := holdsBytes_of_start hstart
  have hnone : samplesOf w24 [] = [] := by cases w24 <;> rfl
  refine ⟨?_, fun k => ?_⟩
  · have hnorm := eventsOf_data_of_step (emitted := fun e => e.norm)
      (shown := fun bytes => sampleEvents (samplesOf w24 bytes)) (fun h d => h.data_norm d) hopen bytes
    simpa [hnone, sampleEvents] using hnorm.symm
  · have hpair := eventsOf_data_of_step (emitted := fun e => e.pair.map fun p => p.bits[k])
      (shown := fun bytes => filePlane w24 bytes k) (fun h d => h.data_pair d k) hopen bytes
    rw [List.map_filterMap]
    simpa [filePlane, hnone, pairsOf, planeOf] using hpair.symm

end Sys2Proof.Machine

/-! PROOFS. The correlator (spec/41_correlator.md): the plane bits of a pair, what the DATA step that
completes one does, and what the pair events and the hits of a whole file report. -/

namespace Sys2Proof.Machine

/-! ## Plane bits (R122 to R125) -/

/-- Settles O25: masking with 1 keeps bit 0 of the shifted XOR, which is the XOR's bit `16 + k`. -/
theorem planeBitIsShiftedXor : Obligations.PlaneBitIsShiftedXor := by
  intro l r k
  have hxor : (planeBits l r)[k] = (l.getLsbD (16 + k) ^^ r.getLsbD (16 + k)) :=
    planeBits_getElem l r k k.isLt
  refine ⟨?_, hxor⟩
  have hbit : (asr (l ^^^ r) (16 + k)).getLsbD 0 = (l ^^^ r).getLsbD (16 + k) :=
    asr_getLsbD_zero _ (by omega)
  rw [hxor, ← BitVec.getLsbD_xor, ← hbit, BitVec.and_one_eq_setWidth_ofBool_getLsbD]
  cases (asr (l ^^^ r) (16 + k)).getLsbD 0 <;> rfl

/-- Settles O26: canonical bit `16 + k` is bit k of a 16-bit sample and bit `8 + k` of a 24-bit one,
so it comes from the first byte of the one and from the second byte of the other. -/
theorem planesReadOneByteOfEachSample : Obligations.PlanesReadOneByteOfEachSample := by
  refine ⟨fun l0 l1 r0 r1 => ?_, fun l0 l1 l2 r0 r1 r2 => ?_⟩ <;>
    refine BitVec.eq_of_getElem_eq fun k hk => ?_
  · have hbit (d0 d1 : Byte) : (canonical16 d0 d1).getLsbD (16 + k) = d0[k] := by
      simp [canonical16_getLsbD, raw16_getLsbD, hk]
    rw [planeBits_getElem, hbit, hbit, BitVec.getElem_xor]
  · have hbit (d0 d1 d2 : Byte) : (canonical24 d0 d1 d2).getLsbD (16 + k) = d1[k] := by
      have hlow : 16 + k - 8 = 8 + k := by omega
      have hmid : 8 + k < 16 := by omega
      have h8 : 8 ≤ 16 + k := by omega
      simp [canonical24_getLsbD, raw24_getLsbD, hlow, hmid, h8, hk]
    rw [planeBits_getElem, hbit, hbit, BitVec.getElem_xor]

/-! ## One pair step (R120, R124, R136 to R140) -/

/-- Settles O31: in lane k every output of the pair step is written with the registers of lane k, its
plane bit and the pair count. -/
theorem lanesAreIndependent : Obligations.LanesAreIndependent := by
  intro r r' a b a' b' k hn hwin hhit hfirst hbit
  simp only [Fin.getElem_fin] at hwin hhit hfirst hbit ⊢
  simp only [pairStep_regs, pairStep_event, shiftWindows_getElem, matchBits_getElem, nextHit_getElem,
    nextFirst_getElem, hn, hwin, hhit, hfirst, hbit, and_self]

/-- In RUN a byte that completes a sample with `CH = 1` runs the pair step on `LEFT` and it (R109). -/
theorem dataStep_of_right {r : Registers} (hs : r.state = .run) (hl : lastByte r.w24 r.bidx = true)
    (hc : r.ch = true) (d : Byte) :
    dataStep d r =
      ((pairStep r.left (completedSample r d) { r with bidx := 0#2, ch := false }).1,
       ⟨some ⟨true, completedSample r d⟩,
        some (pairStep r.left (completedSample r d) { r with bidx := 0#2, ch := false }).2⟩) := by
  simp [dataStep, takeSample, hs, hl, hc]

/-- Settles O22: in either width the byte completes the right sample `c`, and each lane of the pair
step on `LEFT` and `c` is one shift, one comparison and one offset. -/
theorem dataCompletesAPair : Obligations.DataCompletesAPair := by
  intro s d c hs hc hwidth
  have hl : lastByte s.regs.w24 s.regs.bidx = true := by
    refine (lastByte_iff _ _).2 (hwidth.imp ?_ ?_) <;> exact fun ⟨hw, hb, _⟩ => ⟨hw, hb⟩
  have hsample : completedSample s.regs d = c := by
    obtain ⟨hw, -, rfl⟩ | ⟨hw, -, rfl⟩ := hwidth
    · exact completedSample_of_w16 hw d
    · exact completedSample_of_w24 hw d
  have hstep := dataStep_of_right hs hl hc d
  rw [hsample, pairStep_regs, pairStep_event] at hstep
  refine ⟨nextCount s.regs.npairs, matchOffset (nextCount s.regs.npairs), planeBits s.regs.left c, _,
    _, _, rfl, ?offset, ?bits, ?window, ?hits, ?first, exec_data_of_step hstep⟩
  case offset => simp [matchOffset, windowFull]
  case bits => exact fun k => planeBits_getElem _ _ k k.isLt
  case window =>
    intro k
    simp only [Fin.getElem_fin, shiftWindows_getElem, shiftIn_eq_ofNat]
  case hits =>
    intro k
    simp only [Fin.getElem_fin, matchBits_getElem, matchWord_eq_magic, magic, windowFull,
      Bool.decide_and]
    rfl
  case first =>
    intro k
    simp only [Fin.getElem_fin, nextFirst_getElem]
    simp

/-! ## A full window against the pattern (R137, R138, R142) -/

/-- The window holds the newest bit at bit 0, the one before at bit 1, and so on; bits that have not
arrived read as 0 (R137). -/
theorem windowOf_getLsbD (bits : List Bool) {j : Nat} (hj : j < 36) :
    (windowOf bits).getLsbD j = bits.reverse[j]?.getD false := by
  induction bits using List.reverseRecOn generalizing j with
  | nil => simp
  | append_singleton bits b ih =>
    rw [windowOf_concat, shiftIn_getLsbD, List.reverse_append, List.reverse_singleton,
      List.singleton_append]
    cases j with
    | zero => rfl
    | succ j => simp [hj, ih (j := j) (by omega)]

/-- The pattern begins with a 1, so a window that has seen fewer than 36 bits is never the compared
word (R141). -/
theorem patLen_le_of_windowOf_eq {bits : List Bool} (h : windowOf bits = matchWord) :
    36 ≤ bits.length := by
  have holdest : bits.reverse[35]?.getD false = true := by
    rw [← windowOf_getLsbD bits (by decide), h, matchWord_eq_magic]
    decide
  by_contra hshort
  rw [List.getElem?_eq_none (by rw [List.length_reverse]; omega)] at holdest
  cases holdest

/-- The window is the compared word exactly when the bits end in the pattern (R138, R141). -/
theorem windowOf_eq_matchWord_iff (bits : List Bool) : windowOf bits = matchWord ↔ pat <:+ bits := by
  rw [← List.reverse_prefix]
  constructor
  · intro h
    have hlen := patLen_le_of_windowOf_eq h
    refine List.prefix_iff_getElem?.2 fun j hj => ?_
    have hj36 : j < 36 := by simpa [pat_length] using hj
    have hbit : bits.reverse[j]?.getD false = pat.reverse[j]?.getD false := by
      rw [← windowOf_getLsbD bits hj36, ← windowOf_getLsbD pat hj36, h, matchWord]
    have hjb : j < bits.reverse.length := by rw [List.length_reverse]; omega
    rw [List.getElem?_eq_getElem hj, List.getElem?_eq_getElem hjb] at hbit
    rw [List.getElem?_eq_getElem hjb]
    exact congrArg some hbit
  · rintro ⟨back, h⟩
    refine BitVec.eq_of_getLsbD_eq fun j hj => ?_
    have hpat : j < pat.reverse.length := by simpa [pat_length] using hj
    rw [matchWord, windowOf_getLsbD _ hj, windowOf_getLsbD _ hj, ← h,
      List.getElem?_append_left hpat]

/-- The first `i + 1` bits of a plane end in the pattern exactly when it occurs at `i - 35` (R142). -/
theorem pat_suffix_take_iff {plane : List Bool} {i : Nat} (hi : i < plane.length) :
    pat <:+ plane.take (i + 1) ↔ 35 ≤ i ∧ occursAt plane (i - 35) = true := by
  have hlen : (plane.take (i + 1)).length = i + 1 := by simp; omega
  have hends : pat <:+ plane.take (i + 1) ↔ pat = (plane.take (i + 1)).drop (i + 1 - 36) := by
    rw [List.suffix_iff_eq_drop, hlen, pat_length]
  by_cases hfull : 35 ≤ i
  · have hstart : i + 1 - 36 = i - 35 := by omega
    have hwidth : i + 1 - (i - 35) = 36 := by omega
    rw [hends, hstart, List.drop_take, hwidth, occursAt, beq_iff_eq]
    exact ⟨fun h => ⟨hfull, h.symm⟩, fun ⟨_, h⟩ => h.symm⟩
  · refine iff_of_false (fun h => ?_) (fun h => hfull h.1)
    have := h.length_le
    rw [hlen, pat_length] at this
    omega

/-- An occurrence lies in the plane whole (R142). -/
theorem occursAt_length {plane : List Bool} {o : Nat} (h : occursAt plane o = true) :
    o + 35 < plane.length := by
  have hlast := (occursAt_iff plane o).1 h 35 (by decide)
  by_contra hle
  rw [List.getElem?_eq_none (by omega)] at hlast
  simp [pat_length] at hlast

/-! ## The pair events of a file (R120, R127, R142) -/

/-- A file has one pair for every two samples (R121). -/
theorem pairsOf_length (samples : List Word) : (pairsOf samples).length = samples.length / 2 := by
  induction samples using pairsOf.induct with
  | case1 l r rest ih => simp [pairsOf, ih]; omega
  | case2 samples hne =>
    match samples with
    | [] | [_] => simp [pairsOf]
    | l :: r :: rest => exact (hne l r rest rfl).elim

/-- Every plane has one bit for every pair (R126). -/
theorem planeOf_length (k : Lane) (pairs : List (Word × Word)) :
    (planeOf k pairs).length = pairs.length := List.length_map _

/-- What a pair event reports in a lane whose plane has these bits so far: whether they end in the
pattern, and the offset, which is right while the count is (R126, R138, R139). -/
def laneReport (bits : List Bool) : Bool × Nat :=
  (decide (pat <:+ bits), sat32 bits.length - 36)

/-- What the pair events of a file report in a lane with this plane, one for every bit of it. -/
def laneReports (plane : List Bool) : List (Bool × Nat) := plane.inits.tail.map laneReport

/-- One bit more is one report more. -/
theorem laneReports_concat (plane : List Bool) (b : Bool) :
    laneReports (plane ++ [b]) = laneReports plane ++ [laneReport (plane ++ [b])] := by
  have hne : plane.inits ≠ [] := List.ne_nil_of_length_pos (by simp)
  simp [laneReports, List.inits_append, List.map_tail, List.tail_append_of_ne_nil, hne]

/-- There is one report for every bit. -/
theorem laneReports_length (plane : List Bool) : (laneReports plane).length = plane.length := by
  simp [laneReports]

/-- Report i is on the first `i + 1` bits. -/
theorem laneReports_getElem? {plane : List Bool} {i : Nat} (hi : i < plane.length) :
    (laneReports plane)[i]? = some (laneReport (plane.take (i + 1))) := by
  simp [laneReports, hi]

/-- The registers after a pair say what is to be reported of it: the count is at least 36 and the window
is the compared word exactly when the plane so far ends in the pattern, and the offset is 36 below the
saturated count. -/
theorem Registers.HoldsSamples.laneReport_eq {r : Registers} {samples : List Word}
    (h : r.HoldsSamples samples) (k : Lane) :
    (windowFull r.npairs && r.win[k] == matchWord, (matchOffset r.npairs).toNat) =
      laneReport (planeOf k (pairsOf samples)) := by
  have hlen : (planeOf k (pairsOf samples)).length = samples.length / 2 := by
    rw [planeOf_length, pairsOf_length]
  refine Prod.ext ?_ ?_
  · have hfull (hpat : pat <:+ planeOf k (pairsOf samples)) : 36 ≤ r.npairs.toNat := by
      have := hpat.length_le
      rw [pat_length, hlen] at this
      rw [h.npairs, sat32]
      omega
    rw [Bool.eq_iff_iff, h.win k]
    simpa [laneReport, windowFull, windowOf_eq_matchWord_iff] using hfull
  · rw [matchOffset_toNat, h.npairs, ← hlen]
    rfl

/-- A pair event reads the registers that its step leaves: the new count and the shifted windows. -/
theorem dataStep_pair_report {d : Byte} {r : Registers} {p : PairEvent}
    (h : (dataStep d r).2.pair = some p) (k : Lane) :
    p.hits[k] = (windowFull (dataStep d r).1.npairs && (dataStep d r).1.win[k] == matchWord) ∧
    p.off = matchOffset (dataStep d r).1.npairs := by
  obtain ⟨-, hd⟩ | ⟨-, -, hd⟩ | ⟨-, -, -, hd⟩ | ⟨-, -, -, hd⟩ := dataStep_cases d r <;>
    rw [hd] at h ⊢
  case inr.inr.inr =>
    obtain rfl := Option.some.inj h
    exact ⟨matchBits_getElem _ _ k k.isLt, rfl⟩
  all_goals cases h

/-- What a pair event reports in a lane, as numbers: `match[k]` and `match_off` (R127). -/
def PairEvent.laneReport (k : Lane) (p : PairEvent) : Bool × Nat := (p.hits[k], p.off.toNat)

/-- A pair event reports on the plane as far as it is known after its step (R138, R139). -/
theorem Registers.HoldsBytes.pairEvent_report {r : Registers} {w24 : Bool} {bytes : List Byte}
    (h : r.HoldsBytes w24 bytes) {d : Byte} {p : PairEvent} (hp : (dataStep d r).2.pair = some p)
    (k : Lane) : p.laneReport k = laneReport (filePlane w24 (bytes ++ [d]) k) := by
  obtain ⟨hhits, hoff⟩ := dataStep_pair_report hp k
  rw [PairEvent.laneReport, hhits, hoff]
  exact (dataStep_holdsBytes h d).samples.laneReport_eq k

/-- The DATA command that completes a pair adds the pair's bit to a plane, the others add none
(R122, R127). -/
theorem Registers.HoldsBytes.filePlane_concat {r : Registers} {w24 : Bool} {bytes : List Byte}
    (h : r.HoldsBytes w24 bytes) (d : Byte) (k : Lane) :
    ((dataStep d r).2.pair = none ∧ filePlane w24 (bytes ++ [d]) k = filePlane w24 bytes k) ∨
    (∃ p, (dataStep d r).2.pair = some p ∧
      filePlane w24 (bytes ++ [d]) k = filePlane w24 bytes k ++ [p.bits[k]]) := by
  have hplane := h.data_pair d k
  cases hp : (dataStep d r).2.pair with
  | none => exact .inl ⟨rfl, by simpa [hp] using hplane⟩
  | some p => exact .inr ⟨p, rfl, by simpa [hp] using hplane⟩

/-- One DATA command reports on the bit that it adds to the plane (R127). -/
theorem Registers.HoldsBytes.data_report {r : Registers} {w24 : Bool} {bytes : List Byte}
    (h : r.HoldsBytes w24 bytes) (d : Byte) (k : Lane) :
    laneReports (filePlane w24 (bytes ++ [d]) k) =
      laneReports (filePlane w24 bytes k) ++
        ((dataStep d r).2.pair.map (PairEvent.laneReport k)).toList := by
  obtain ⟨hp, hplane⟩ | ⟨p, hp, hplane⟩ := h.filePlane_concat d k
  · simp [hp, hplane]
  · rw [hp, Option.map_some, Option.toList_some, h.pairEvent_report hp k, hplane, laneReports_concat]

/-- The pair events of a file report on its planes, bit by bit (R127). -/
theorem pairEvents_report {s t : State} {w24 : Bool}
    (hstart : exec (.start 2 (if w24 then 24 else 16)) s = .next t) (bytes : List Byte) (k : Lane) :
    ((eventsOf (bytes.map .data) t).filterMap (fun e => e.pair)).map (PairEvent.laneReport k) =
      laneReports (filePlane w24 bytes k) := by
  have hreports := eventsOf_data_of_step (emitted := fun e => e.pair.map (PairEvent.laneReport k))
    (shown := fun bytes => laneReports (filePlane w24 bytes k)) (fun h d => h.data_report d k)
    (holdsBytes_of_start hstart) bytes
  have hnone : laneReports (filePlane w24 [] k) = [] := by cases w24 <;> rfl
  rw [List.map_filterMap]
  simpa [hnone] using hreports.symm

/-- Settles O47: pair event i reports on the first `i + 1` bits of the plane, which end in the pattern
exactly when it occurs at `i - 35`; and up to `2^32 - 1` pairs the count is not saturated, so the offset
is `i + 1 - 36`. -/
theorem everyOccurrenceIsReportedOnce : Obligations.EveryOccurrenceIsReportedOnce := by
  intro s t w24 bytes k hstart hsize
  have hreports := pairEvents_report hstart bytes k
  generalize (eventsOf (bytes.map .data) t).filterMap (fun e => e.pair) = events at hreports ⊢
  generalize filePlane w24 bytes k = plane at hreports hsize ⊢
  have hevent {i : Nat} (hi : i < plane.length) : ∃ p, events[i]? = some p ∧
      (p.hits[k] = true ↔ 35 ≤ i ∧ occursAt plane (i - 35) = true) ∧ p.off.toNat = i - 35 := by
    have hget : (events.map (PairEvent.laneReport k))[i]? = some (laneReport (plane.take (i + 1))) := by
      rw [hreports, laneReports_getElem? hi]
    rw [List.getElem?_map, Option.map_eq_some_iff] at hget
    obtain ⟨p, hp, hreport⟩ := hget
    obtain ⟨hhits, hoff⟩ := Prod.mk.inj hreport
    refine ⟨p, hp, ?_, ?_⟩
    · rw [hhits, decide_eq_true_iff, pat_suffix_take_iff hi]
    · rw [hoff, List.length_take, sat32]
      omega
  refine ⟨?_, fun o ho => ?_, fun i hi => ?_⟩
  · rw [← laneReports_length plane, ← hreports, List.length_map]
  · obtain ⟨p, hp, hhits, hoff⟩ := hevent (occursAt_length ho)
    exact ⟨p, hp, hhits.2 ⟨by omega, ho⟩, hoff⟩
  · obtain ⟨p, hp, hhits, hoff⟩ := hevent hi
    exact ⟨p, hp, hhits, fun _ => hoff⟩

/-! ## The hits of a file (R128, R140, R142) -/

/-- DATA adds the matches of the pair it completes to `HIT` (R140). -/
theorem dataStep_hit (d : Byte) (r : Registers) (k : Lane) :
    (dataStep d r).1.hit[k] = (r.hit[k] || (dataStep d r).2.pair.any fun p => p.hits[k]) := by
  obtain ⟨-, hd⟩ | ⟨-, -, hd⟩ | ⟨-, -, -, hd⟩ | ⟨-, -, -, hd⟩ := dataStep_cases d r <;> rw [hd]
  case inr.inr.inr => exact nextHit_getElem _ _ k k.isLt
  case inr.inl => rw [Registers.storeByte_frame]; simp
  all_goals simp

/-- `HIT` says in which planes of the file so far the pattern occurs (R32, R142). -/
def Registers.HoldsHits (r : Registers) (w24 : Bool) (bytes : List Byte) : Prop :=
  ∀ k : Lane, r.hit[k] = true ↔ pat <:+: filePlane w24 bytes k

/-- START opens a file in whose planes nothing occurs. -/
theorem openFile_holdsHits (w24 : Bool) : (Registers.reset.openFile w24).HoldsHits w24 [] := by
  intro k
  have hnone : filePlane w24 [] k = [] := by cases w24 <;> rfl
  have hpat : pat ≠ [] := by decide
  simp [hnone, hpat]

/-- An occurrence that is new in a longer plane ends at its newest bit, where the pair event of that
bit reports it (R138, R140). -/
theorem dataStep_holdsHits {r : Registers} {w24 : Bool} {bytes : List Byte}
    (h : r.HoldsBytes w24 bytes) (hhits : r.HoldsHits w24 bytes) (d : Byte) :
    (dataStep d r).1.HoldsHits w24 (bytes ++ [d]) := by
  intro k
  rw [dataStep_hit, Bool.or_eq_true, hhits k]
  obtain ⟨hp, hplane⟩ | ⟨p, hp, hplane⟩ := h.filePlane_concat d k
  · simp [hp, hplane]
  · have hnew : p.hits[k] = decide (pat <:+ filePlane w24 (bytes ++ [d]) k) :=
      congrArg Prod.fst (h.pairEvent_report hp k)
    rw [hp, Option.any_some, hnew, decide_eq_true_iff, hplane, List.infix_concat_iff, or_comm]

/-- What START establishes and every DATA command keeps holds after START and any bytes. -/
theorem execAll_file_keeps {w24 : Bool} {P : Registers → List Byte → Prop}
    (hopen : P (Registers.reset.openFile w24) [])
    (hdata : ∀ r bytes d, P r bytes → P (dataStep d r).1 (bytes ++ [d])) (s : State)
    (bytes : List Byte) :
    ∃ t, execAll (.start 2 (if w24 then 24 else 16) :: bytes.map .data) s = .next t ∧
      P t.regs bytes := by
  induction bytes using List.reverseRecOn with
  | nil =>
    refine ⟨s.commit (startStep 2 (if w24 then 24 else 16) s.regs), rfl, ?_⟩
    rw [State.commit_regs, startStep_good]
    exact hopen
  | append_singleton bytes d ih =>
    obtain ⟨t, ht, hold⟩ := ih
    refine ⟨t.commit (dataStep d t.regs), ?_, hdata _ _ d hold⟩
    rw [List.map_append, ← List.cons_append, execAll_append, ht]
    rfl

/-- After START and any bytes the registers hold the file so far, and `HIT` what occurs in it. -/
theorem execAll_file_holdsHits (s : State) (w24 : Bool) (bytes : List Byte) :
    ∃ t, execAll (.start 2 (if w24 then 24 else 16) :: bytes.map .data) s = .next t ∧
      t.regs.HoldsBytes w24 bytes ∧ t.regs.HoldsHits w24 bytes :=
  execAll_file_keeps (P := fun r bytes => r.HoldsBytes w24 bytes ∧ r.HoldsHits w24 bytes)
    ⟨openFile_holdsBytes w24, openFile_holdsHits w24⟩
    (fun _ _ d ⟨h, hhits⟩ => ⟨dataStep_holdsBytes h d, dataStep_holdsHits h hhits d⟩) s bytes

/-- A host presents a good descriptor as it is: no field saturates (R158, R214). -/
theorem hostFile_good (w24 : Bool) (bytes : List Byte) :
    hostFile 2 (if w24 then 24 else 16) bytes =
      (.start 2 (if w24 then 24 else 16) :: bytes.map .data) ++ [.endFile] := by
  cases w24 <;> rfl

/-- END in RUN with `CH = 0` finishes the file (R162, R164). -/
theorem endStep_of_whole {r : Registers} (hs : r.state = .run) (hc : r.ch = false) :
    endStep r = (r.dropPartial.finish, .silent) := by
  simp [endStep, hs, hc]

/-- A whole file with an even sample count ends in DONE, and `HIT` says in which of its planes the
pattern occurs (R140, R142, R164). -/
theorem execAll_hostFile_done (s : State) {w24 : Bool} {bytes : List Byte}
    (heven : (samplesOf w24 bytes).length % 2 = 0) :
    ∃ t, execAll (hostFile 2 (if w24 then 24 else 16) bytes) s = .next t ∧
      t.regs.state = .done ∧ t.regs.HoldsHits w24 bytes := by
  obtain ⟨u, hu, hold, hhits⟩ := execAll_file_holdsHits s w24 bytes
  have hc : u.regs.ch = false := by rw [hold.samples.ch, heven]; rfl
  refine ⟨u.commit (u.regs.dropPartial.finish, .silent), ?_, rfl, hhits⟩
  rw [hostFile_good, execAll_append, hu, ← endStep_of_whole hold.state hc]
  rfl

/-- The planes of equal channels are zero (R128). -/
theorem filePlane_of_equal_channels {w24 : Bool} {bytes : List Byte}
    (h : ∀ p ∈ pairsOf (samplesOf w24 bytes), p.1 = p.2) (k : Lane) :
    ∀ b ∈ filePlane w24 bytes k, b = false := by
  intro b hb
  obtain ⟨p, hp, rfl⟩ := List.mem_map.1 hb
  simp [h p hp]

/-- Settles O50: the planes are zero and the pattern has a 1, so it occurs in none of them. -/
theorem equalChannelsAreNeverFound : Obligations.EqualChannelsAreNeverFound := by
  intro s w24 bytes hequal heven
  obtain ⟨t, ht, hdone, hhits⟩ := execAll_hostFile_done s heven
  have hnone (k : Lane) : t.regs.hit[k] = false := by
    rw [← Bool.not_eq_true, hhits k]
    intro hpat
    have hone : true ∈ filePlane w24 bytes k := hpat.subset (by decide)
    exact absurd (filePlane_of_equal_channels hequal k true hone) (by decide)
  have hhit : t.regs.hit = 0#8 := by
    refine BitVec.eq_of_getElem_eq fun k hk => ?_
    rw [BitVec.getElem_zero]
    exact hnone ⟨k, hk⟩
  exact ⟨t, ht, hdone, by simp [levelOutputs, resultValid, hdone],
    by simp [levelOutputs, hhit], by simp [levelOutputs, hhit]⟩

end Sys2Proof.Machine

/-! PROOFS. The matcher (spec/42_matcher.md): the pattern and the window, occurrences in a plane, and the
verdict that a whole file leaves on the ports against the document's algorithm. -/

namespace Sys2Proof.Machine

/-! ## The pattern and the window (R135, R137, R138, R141) -/

/-- Settles O27: the pattern and the word it packs to are closed terms. -/
theorem patternIsMagicMostSignificantBitFirst : Obligations.PatternIsMagicMostSignificantBitFirst :=
  ⟨rfl, matchWord_eq_magic, pat_length, by decide, by decide⟩

/-- Settles O28: bit j of the window is element j of the bits read backwards. -/
theorem windowHoldsTheNewestBits : Obligations.WindowHoldsTheNewestBits := by
  intro bits j hj
  rw [windowOf_getLsbD bits hj]
  split
  · next h => rw [List.getElem?_reverse h, List.getElem?_eq_getElem, Option.getD_some]
  · next h => rw [List.getElem?_eq_none (by simpa using h), Option.getD_none]

/-- Settles O29: the window is MAGIC exactly when the bits end in the pattern, which is 36 bits long. -/
theorem windowMatchesExactlyTheLastBits : Obligations.WindowMatchesExactlyTheLastBits := by
  intro bits
  rw [← matchWord_eq_magic, windowOf_eq_matchWord_iff, List.suffix_iff_eq_drop, pat_length]
  constructor
  · intro h
    have hlen := congrArg List.length h
    rw [pat_length, List.length_drop] at hlen
    exact ⟨by omega, h.symm⟩
  · exact fun ⟨_, h⟩ => h.symm

/-! ## Occurrences in a plane (R142, R145, R146) -/

/-- No proper part of the pattern is both its end and its beginning (R146). -/
theorem pat_drop_ne_take : ∀ d < 36, 0 < d → pat.drop d ≠ pat.take (36 - d) := by decide

/-- Settles O30: the overlap of two nearer occurrences would be both an end and a beginning of the
pattern. -/
theorem occurrencesDoNotOverlap : Obligations.OccurrencesDoNotOverlap := by
  intro plane o o' h h' hlt
  obtain ⟨d, rfl⟩ := Nat.exists_eq_add_of_lt hlt
  rw [occursAt, beq_iff_eq] at h h'
  by_contra hnear
  have hend : pat.drop (d + 1) = (plane.drop (o + d + 1)).take (36 - (d + 1)) := by
    rw [← h, List.drop_take, List.drop_drop]
    rfl
  have hbegin : pat.take (36 - (d + 1)) = (plane.drop (o + d + 1)).take (36 - (d + 1)) := by
    rw [← h', List.take_take, Nat.min_eq_left (Nat.sub_le 36 (d + 1))]
  exact pat_drop_ne_take (d + 1) (by omega) (by omega) (hend.trans hbegin.symm)

/-- The pattern occurs at o exactly when the plane goes on with it from there. -/
theorem occursAt_iff_prefix (plane : List Bool) (o : Nat) :
    occursAt plane o = true ↔ pat <+: plane.drop o := by
  rw [occursAt, beq_iff_eq, List.prefix_iff_eq_take, pat_length, eq_comm]

/-- The pattern is a substring of a plane exactly when it occurs somewhere in it (R142). -/
theorem pat_infix_iff (plane : List Bool) : pat <:+: plane ↔ ∃ o, occursAt plane o = true := by
  rw [List.infix_iff_prefix_suffix]
  constructor
  · rintro ⟨rest, hpre, hsuf⟩
    refine ⟨plane.length - rest.length, (occursAt_iff_prefix _ _).2 ?_⟩
    rwa [← List.suffix_iff_eq_drop.1 hsuf]
  · rintro ⟨o, h⟩
    exact ⟨_, (occursAt_iff_prefix plane o).1 h, List.drop_suffix o plane⟩

/-- Settles O49: `HIT` says in which planes the pattern is a substring, whatever the pair count does. -/
theorem hitIsRightForEveryLength : Obligations.HitIsRightForEveryLength := by
  intro s w24 bytes k
  obtain ⟨t, ht, -, hhits⟩ := execAll_file_holdsHits s w24 bytes
  exact ⟨t, ht, (hhits k).trans (pat_infix_iff _)⟩

/-- Every plane of a file has one bit for every two samples (R121, R126). -/
theorem filePlane_length (w24 : Bool) (bytes : List Byte) (k : Lane) :
    (filePlane w24 bytes k).length = (samplesOf w24 bytes).length / 2 := by
  rw [filePlane, planeOf_length, pairsOf_length]

/-- Eight lanes hold no bit exactly when none of them does. -/
theorem lanes_eq_zero_iff (m : BitVec 8) : m = 0#8 ↔ ∀ k : Lane, m[k] = false := by
  constructor
  · rintro rfl k
    exact BitVec.getElem_zero k.isLt
  · intro h
    refine BitVec.eq_of_getElem_eq fun k hk => ?_
    rw [BitVec.getElem_zero]
    exact h ⟨k, hk⟩

/-- Settles O51: no plane is long enough to hold the pattern, so no lane has hit. -/
theorem shortFilesAreNotFound : Obligations.ShortFilesAreNotFound := by
  intro s w24 bytes hshort heven
  obtain ⟨t, ht, hdone, hhits⟩ := execAll_hostFile_done s heven
  have hnone (k : Lane) : t.regs.hit[k] = false := by
    rw [← Bool.not_eq_true, hhits k]
    intro hpat
    have hlen := hpat.length_le
    rw [pat_length, filePlane_length] at hlen
    omega
  have hhit := (lanes_eq_zero_iff t.regs.hit).2 hnone
  exact ⟨t, ht, hdone, by simp [levelOutputs, hhit], by simp [levelOutputs, hhit]⟩

/-! ## The first occurrence in a plane that grows bit by bit (R140, R142) -/

/-- An occurrence in a plane with one bit more was there before or ends at the new bit. -/
theorem occursAt_concat (plane : List Bool) (b : Bool) (o : Nat) :
    occursAt (plane ++ [b]) o = true ↔
      occursAt plane o = true ∨ pat <:+ plane ++ [b] ∧ o + 35 = plane.length := by
  obtain hold | hend | hlate := Nat.lt_trichotomy (o + 35) plane.length
  · have hsame : occursAt (plane ++ [b]) o = occursAt plane o := by
      rw [occursAt, occursAt, List.drop_append_of_le_length (by omega),
        List.take_append_of_le_length (by rw [List.length_drop]; simp only [Config.patLen]; omega)]
    rw [hsame]
    exact ⟨.inl, fun h => h.resolve_right fun ⟨_, h⟩ => by omega⟩
  · have hnot : ¬ occursAt plane o = true := fun h => by have := occursAt_length h; omega
    have hnew : pat <:+ plane ++ [b] ↔ 35 ≤ plane.length ∧ occursAt (plane ++ [b]) o = true := by
      have hstart : plane.length - 35 = o := by omega
      have hwhole : (plane ++ [b]).take (plane.length + 1) = plane ++ [b] :=
        List.take_of_length_le (by simp)
      rw [← hstart, ← pat_suffix_take_iff (by simp), hwhole]
    rw [hnew]
    exact ⟨fun h => .inr ⟨⟨by omega, h⟩, hend⟩, fun h => (h.resolve_left hnot).1.2⟩
  · refine iff_of_false (fun h => ?_) (not_or.2 ⟨fun h => ?_, fun h => by omega⟩) <;>
      have := occursAt_length h
    · rw [List.length_append, List.length_singleton] at this
      omega
    · omega

/-- The search finds o exactly when the pattern occurs there and nowhere before. -/
theorem firstOccurrence_eq_some_iff (plane : List Bool) (o : Nat) :
    firstOccurrence plane = some o ↔
      occursAt plane o = true ∧ ∀ j < o, ¬ occursAt plane j = true := by
  rw [firstOccurrence, List.find?_range_eq_some, List.mem_range]
  simp only [Bool.not_eq_true', Bool.not_eq_true]
  exact ⟨fun ⟨h, _, hmin⟩ => ⟨h, hmin⟩,
    fun ⟨h, hmin⟩ => ⟨h, by have := occursAt_length h; omega, hmin⟩⟩

/-- The search finds nothing exactly when the pattern occurs nowhere. -/
theorem firstOccurrence_eq_none_iff (plane : List Bool) :
    firstOccurrence plane = none ↔ ∀ o, ¬ occursAt plane o = true := by
  rw [firstOccurrence, List.find?_range_eq_none]
  simp only [Bool.not_eq_true', ← Bool.not_eq_true]
  exact ⟨fun h o ho => h o (by have := occursAt_length ho; omega) ho, fun h o _ => h o⟩

/-- One bit more leaves the first occurrence where it was, and is the end of one if there was none and
the plane now ends in the pattern. -/
theorem firstOccurrence_concat (plane : List Bool) (b : Bool) :
    firstOccurrence (plane ++ [b]) =
      (firstOccurrence plane).or
        (if pat <:+ plane ++ [b] then some (plane.length - 35) else none) := by
  cases hfirst : firstOccurrence plane with
  | some o =>
    obtain ⟨ho, hmin⟩ := (firstOccurrence_eq_some_iff plane o).1 hfirst
    have hlen := occursAt_length ho
    refine (firstOccurrence_eq_some_iff _ o).2 ⟨(occursAt_concat plane b o).2 (.inl ho), ?_⟩
    intro j hj h
    obtain h | ⟨-, hend⟩ := (occursAt_concat plane b j).1 h
    · exact hmin j hj h
    · omega
  | none =>
    have hnone := (firstOccurrence_eq_none_iff plane).1 hfirst
    rw [Option.none_or]
    split
    · next hpat =>
      have hlen := hpat.length_le
      rw [pat_length, List.length_append, List.length_singleton] at hlen
      refine (firstOccurrence_eq_some_iff _ _).2
        ⟨(occursAt_concat plane b _).2 (.inr ⟨hpat, by omega⟩), fun j hj h => ?_⟩
      obtain h | ⟨-, hend⟩ := (occursAt_concat plane b j).1 h
      · exact hnone j h
      · omega
    · next hpat =>
      refine (firstOccurrence_eq_none_iff _).2 fun o h => ?_
      obtain h | ⟨h, -⟩ := (occursAt_concat plane b o).1 h
      · exact hnone o h
      · exact hpat h

/-! ## `HIT` and `FIRST` against the search (R126, R140, R142) -/

/-- What the registers say of a lane: where it first matched, if it did (R32, R33). -/
def Registers.laneVerdict (r : Registers) (k : Lane) : Option Nat :=
  if r.hit[k] then some r.first[k].toNat else none

/-- What a pair event says of a lane: where the occurrence that ends at the pair starts, if one does. -/
def PairEvent.laneMatch (k : Lane) (p : PairEvent) : Option Nat :=
  if p.hits[k] then some p.off.toNat else none

/-- DATA takes the match of the pair it completes for a lane that had none (R140). -/
theorem dataStep_laneVerdict (d : Byte) (r : Registers) (k : Lane) :
    (dataStep d r).1.laneVerdict k =
      (r.laneVerdict k).or ((dataStep d r).2.pair.bind (PairEvent.laneMatch k)) := by
  obtain ⟨-, hd⟩ | ⟨-, -, hd⟩ | ⟨-, -, -, hd⟩ | ⟨-, -, -, hd⟩ := dataStep_cases d r <;> rw [hd]
  case inr.inr.inr =>
    rw [Option.bind_some, pairStep_regs]
    generalize (pairStep r.left (completedSample r d) _).2 = p
    simp only [Registers.laneVerdict, PairEvent.laneMatch, Fin.getElem_fin, nextHit_getElem,
      nextFirst_getElem]
    cases r.hit[(k : Nat)] <;> cases p.hits[(k : Nat)] <;> rfl
  case inr.inl => rw [Registers.storeByte_frame]; exact (Option.or_none).symm
  all_goals exact (Option.or_none).symm

/-- In every plane of the file so far that the pair count can count, the registers have the first
occurrence (R126, R142). -/
def Registers.HoldsFirsts (r : Registers) (w24 : Bool) (bytes : List Byte) : Prop :=
  ∀ k : Lane, (filePlane w24 bytes k).length ≤ 2 ^ 32 - 1 →
    r.laneVerdict k = firstOccurrence (filePlane w24 bytes k)

/-- START opens a file in whose planes nothing occurs. -/
theorem openFile_holdsFirsts (w24 : Bool) : (Registers.reset.openFile w24).HoldsFirsts w24 [] := by
  intro k _
  have hnone : filePlane w24 [] k = [] := by cases w24 <;> rfl
  rw [hnone, Registers.laneVerdict, Registers.openFile_hit]
  simp [firstOccurrence]

/-- While the count is right, the match of a pair event is the occurrence that ends at its pair, and the
registers take it for the first one only when they had none (R139, R140). -/
theorem dataStep_holdsFirsts {r : Registers} {w24 : Bool} {bytes : List Byte}
    (h : r.HoldsBytes w24 bytes) (hfirsts : r.HoldsFirsts w24 bytes) (d : Byte) :
    (dataStep d r).1.HoldsFirsts w24 (bytes ++ [d]) := by
  intro k hsize
  rw [dataStep_laneVerdict]
  obtain ⟨hp, hplane⟩ | ⟨p, hp, hplane⟩ := h.filePlane_concat d k
  · rw [hplane] at hsize ⊢
    rw [hp, Option.bind_none, Option.or_none, hfirsts k hsize]
  · obtain ⟨hhits, hoff⟩ := Prod.mk.inj (h.pairEvent_report hp k)
    rw [hplane] at hsize hhits hoff ⊢
    rw [List.length_append, List.length_singleton] at hsize hoff
    have hstart : p.off.toNat = (filePlane w24 bytes k).length - 35 := by
      rw [hoff, sat32]
      omega
    rw [hp, Option.bind_some, PairEvent.laneMatch, hhits, hstart, hfirsts k (by omega),
      firstOccurrence_concat]
    simp only [decide_eq_true_eq]

/-- After START and any bytes the registers hold the file so far, and where each of its planes first
contains the pattern. -/
theorem execAll_file_holdsFirsts (s : State) (w24 : Bool) (bytes : List Byte) :
    ∃ t, execAll (.start 2 (if w24 then 24 else 16) :: bytes.map .data) s = .next t ∧
      t.regs.HoldsBytes w24 bytes ∧ t.regs.HoldsFirsts w24 bytes :=
  execAll_file_keeps (P := fun r bytes => r.HoldsBytes w24 bytes ∧ r.HoldsFirsts w24 bytes)
    ⟨openFile_holdsBytes w24, openFile_holdsFirsts w24⟩
    (fun _ _ d ⟨h, hfirsts⟩ => ⟨dataStep_holdsBytes h d, dataStep_holdsFirsts h hfirsts d⟩) s bytes

/-! ## What the host reads off the ports (R168 to R171, R181, R217) -/

/-- Every error is named by its code (R181). -/
theorem errorNamed_code (e : ErrCode) : errorNamed e.code = e := by
  cases e <;> rfl

/-- In ERROR the host reads the error. -/
theorem verdictRead_of_error {r : Registers} (h : r.state = .error) :
    verdictRead (levelOutputs r) = some (.error r.errCode) := by
  have hcode : Phase.error.code = 3#2 := rfl
  simp [verdictRead, levelOutputs, resultValid, h, hcode, errorNamed_code]

/-- A lane has a verdict exactly when it has hit. -/
theorem Registers.laneVerdict_isSome (r : Registers) (k : Lane) :
    (r.laneVerdict k).isSome = r.hit[k] := by
  rw [Registers.laneVerdict]
  cases r.hit[k] <;> rfl

/-- Some lane has a verdict exactly when `HIT` is not zero (R169). -/
theorem any_laneVerdict (r : Registers) :
    (Vector.ofFn r.laneVerdict).any Option.isSome = (r.hit != 0#8) := by
  rw [Bool.eq_iff_iff, Vector.any_eq_true, bne_iff_ne, ne_eq, lanes_eq_zero_iff, not_forall]
  simp only [Vector.getElem_ofFn, Registers.laneVerdict_isSome, Bool.not_eq_false, Fin.exists_iff]

/-- In DONE the host reads what the registers say of each lane. -/
theorem verdictRead_of_done {r : Registers} (h : r.state = .done) :
    verdictRead (levelOutputs r) =
      some (.ok ⟨(Vector.ofFn r.laneVerdict).any Option.isSome, Vector.ofFn r.laneVerdict⟩) := by
  have hvalid : resultValid r = true := by rw [resultValid, h]; rfl
  have hlane (k : Lane) :
      (if r.hit[k] then some ((levelOutputs r).firstOff[k]).toNat else none) = r.laneVerdict k := by
    cases hk : r.hit[(k : Nat)] <;> simp [levelOutputs, Registers.laneVerdict, hvalid, hk]
  rw [any_laneVerdict, ← funext hlane]
  simp [verdictRead, levelOutputs, hvalid]

/-! ## A whole file (R142, R159, R164, R185, R186) -/

/-- The document's answer for a file with a good descriptor. -/
theorem detect_good (w24 : Bool) (bytes : List Byte) :
    detect 2 (if w24 then 24 else 16) bytes =
      if (samplesOf w24 bytes).length % 2 = 1 then .error .unpairedSample
      else
        let first := Vector.ofFn fun k : Lane => firstOccurrence (filePlane w24 bytes k)
        .ok ⟨first.any Option.isSome, first⟩ := by
  cases w24 <;> rfl

/-- With a good descriptor the ports show the document's answer: END finds the left sample of an odd
count waiting, or else closes a file of whole pairs. -/
theorem execAll_hostFile_good (s : State) {w24 : Bool} {bytes : List Byte}
    (hsize : (samplesOf w24 bytes).length / 2 ≤ 2 ^ 32 - 1) :
    ∃ t, execAll (hostFile 2 (if w24 then 24 else 16) bytes) s = .next t ∧
      verdictRead (levelOutputs t.regs) = some (detect 2 (if w24 then 24 else 16) bytes) := by
  obtain ⟨u, hu, hold, hfirsts⟩ := execAll_file_holdsFirsts s w24 bytes
  refine ⟨u.commit (endStep u.regs), by rw [hostFile_good, execAll_append, hu]; rfl, ?_⟩
  rw [State.commit_regs, detect_good]
  obtain ⟨hs, -⟩ | ⟨-, hc, he⟩ | ⟨-, hc, he⟩ := endStep_cases u.regs
  · exact absurd hold.state hs
  · have hodd : (samplesOf w24 bytes).length % 2 = 1 := by simpa [hc] using hold.samples.ch
    rw [he, verdictRead_of_error rfl, if_pos hodd]
    rfl
  · have heven : ¬ (samplesOf w24 bytes).length % 2 = 1 := by
      rw [hold.samples.even_of_left hc]
      decide
    have hlanes : u.regs.dropPartial.finish.laneVerdict =
        fun k => firstOccurrence (filePlane w24 bytes k) :=
      funext fun k => hfirsts k (by rw [filePlane_length]; exact hsize)
    rw [he, verdictRead_of_done rfl, hlanes, if_neg heven]

/-- Outside RUN no sequence of commands without CLR and START changes anything (R87). -/
theorem commandsStep_of_not_run {is : List Instr} (his : ∀ i ∈ is, commandDiscards i = false)
    {r : Registers} (hr : r.state ≠ .run) : commandsStep is r = r := by
  induction is with
  | nil => rfl
  | cons i is ih =>
    obtain ⟨hi, his⟩ := List.forall_mem_cons.1 his
    rw [commandsStep, List.foldl_cons, commandStep_of_not_run hi hr]
    exact ih his

/-- When START refuses the descriptor, its error is what the ports show after the whole file. -/
theorem execAll_hostFile_refused (s : State) {channels width : Nat} (bytes : List Byte)
    {code : ErrCode}
    (h : startStep (saturateField channels) (saturateField width) s.regs =
      (Registers.reset.raise code, .silent)) :
    ∃ t, execAll (hostFile channels width bytes) s = .next t ∧
      verdictRead (levelOutputs t.regs) = some (.error code) := by
  obtain ⟨t, ht, hregs⟩ := execAll_regs (hostFile channels width bytes) s
  have hkept : commandsStep (bytes.map .data ++ [.endFile]) (Registers.reset.raise code) =
      Registers.reset.raise code := by
    refine commandsStep_of_not_run (fun i hi => ?_) (by rw [Registers.raise_state]; decide)
    obtain hi | hi := List.mem_append.1 hi
    · obtain ⟨d, -, rfl⟩ := List.mem_map.1 hi
      rfl
    · obtain rfl := List.mem_singleton.1 hi
      rfl
  have hstart : commandStep (hostStart channels width) s.regs =
      (Registers.reset.raise code, .silent) := h
  refine ⟨t, ht, ?_⟩
  rw [hregs, hostFile, commandsStep, List.foldl_cons, hstart]
  exact (congrArg (fun r => verdictRead (levelOutputs r)) hkept).trans (verdictRead_of_error rfl)

/-- Saturation keeps every number below the field's last value apart from the others (R158). -/
theorem saturateField_eq_iff {n c : Nat} (hc : c < 65535) : saturateField n = c ↔ n = c := by
  simp only [saturateField, Config.fieldRange]
  omega

/-- Settles O48: START refuses the descriptors the document refuses, and with a good one the registers
hold the first occurrence in each plane when END comes. -/
theorem blockComputesTheDocumentsVerdict : Obligations.BlockComputesTheDocumentsVerdict := by
  intro s channels width bytes hsize
  have h2 := saturateField_eq_iff (n := channels) (c := 2) (by decide)
  have h16 := saturateField_eq_iff (n := width) (c := 16) (by decide)
  have h24 := saturateField_eq_iff (n := width) (c := 24) (by decide)
  have hcases := startStep_cases (saturateField channels) (saturateField width) s.regs
  simp only [ne_eq, h2, h16, h24] at hcases
  obtain ⟨hn16, hn24, hstart⟩ | ⟨hwidth, hchannels, hstart⟩ | ⟨hwidth, rfl, -⟩ := hcases
  · have hdetect : detect channels width bytes = .error .unsupportedFormat := by
      simp [detect, hn16, hn24]
    exact hdetect ▸ execAll_hostFile_refused s bytes hstart
  · have hdetect : detect channels width bytes = .error .invalidChannelLayout := by
      obtain rfl | rfl := hwidth <;> simp [detect, hchannels]
    exact hdetect ▸ execAll_hostFile_refused s bytes hstart
  · obtain rfl | rfl := hwidth
    · exact execAll_hostFile_good s (w24 := false) hsize
    · exact execAll_hostFile_good s (w24 := true) hsize

end Sys2Proof.Machine

/-! PROOFS. The sequencing commands (spec/43_driver_commands.md): what START and END do to the registers,
the result ports, the transition table of `STATE`, and why a discarded file leaves no trace. -/

namespace Sys2Proof.Machine

/-! ## One command (R155, R160, R161) -/

/-- Executing a command whose step is known commits that step. -/
theorem exec_of_commandStep {i : Instr} {s : State} {p : Registers × Events}
    (h : commandStep i s.regs = p) : exec i s = .next (s.commit p) :=
  h ▸ exec_eq_commit i s

/-- CLR and START build their registers from `S0`, so the registers they find do not count (R155, R157). -/
theorem commandStep_of_discards {i : Instr} (hi : commandDiscards i = true) (r r' : Registers) :
    commandStep i r = commandStep i r' := by
  cases i with
  | clr => rfl
  | start channels width => rfl
  | data d => cases hi
  | endFile => cases hi

/-- START with two channels and a width of 16 or 24 opens a file over `S0` (R160). -/
theorem startStep_of_good {width : Nat} (hw : width = 16 ∨ width = 24) (r : Registers) :
    startStep 2 width r = (Registers.reset.openFile (decide (width = 24)), .silent) := by
  obtain rfl | rfl := hw
  · exact startStep_good false r
  · exact startStep_good true r

/-- START with a bad descriptor raises an error over `S0`, and the width is looked at first (R159, R186). -/
theorem startStep_of_bad {channels width : Nat} (h : channels ≠ 2 ∨ (width ≠ 16 ∧ width ≠ 24))
    (r : Registers) :
    startStep channels width r =
      (Registers.reset.raise
        (if width = 16 ∨ width = 24 then .invalidChannelLayout else .unsupportedFormat), .silent) := by
  obtain ⟨h16, h24, hstart⟩ | ⟨hw, -, hstart⟩ | ⟨hw, hc, -⟩ := startStep_cases channels width r
  · rw [hstart, if_neg (not_or.2 ⟨h16, h24⟩)]
  · rw [hstart, if_pos hw]
  · omega

/-- In RUN, END with a left sample waiting raises UnpairedSample (R163). -/
theorem endStep_of_unpaired {r : Registers} (hs : r.state = .run) (hc : r.ch = true) :
    endStep r = (r.dropPartial.raise .unpairedSample, .silent) := by
  simp [endStep, hs, hc]

/-! ## The result ports (R168 to R171) -/

/-- The verdict is on the ports exactly in DONE (R168). -/
theorem resultValid_iff (r : Registers) : resultValid r = true ↔ r.state = .done := beq_iff_eq

/-- `found` says that the file is closed and some lane has hit (R169). -/
theorem levelOutputs_found_iff (r : Registers) :
    (levelOutputs r).found = true ↔ r.state = .done ∧ r.hit ≠ 0#8 := by
  rw [levelOutputs, Bool.and_eq_true, resultValid_iff, bne_iff_ne]

/-- `matched_planes` is `HIT` behind the gate of DONE (R170). -/
theorem levelOutputs_matchedPlanes (r : Registers) :
    (levelOutputs r).matchedPlanes = if r.state = .done then r.hit else 0#8 := by
  simp only [levelOutputs, resultValid_iff]

/-- `first_off_k` is `FIRST[k]` behind the gates of DONE and of the lane's hit (R171). -/
theorem levelOutputs_firstOff (r : Registers) (k : Lane) :
    (levelOutputs r).firstOff[k] =
      if r.state = .done ∧ r.hit[k] = true then r.first[k] else 0#32 := by
  simp [levelOutputs, resultValid_iff]

/-- Settles O35: each result port has its rule above, the others copy a register. -/
theorem resultPortsShowTheVerdict : Obligations.ResultPortsShowTheVerdict := fun r =>
  ⟨resultValid_iff r, levelOutputs_found_iff r, levelOutputs_matchedPlanes r,
    levelOutputs_firstOff r, rfl, rfl, rfl, rfl⟩

/-- Outside DONE every result port reads 0 (R168 to R171). -/
theorem resultPorts_of_not_done {r : Registers} (h : r.state ≠ .done) :
    (levelOutputs r).resultValid = false ∧ (levelOutputs r).found = false ∧
      (levelOutputs r).matchedPlanes = 0#8 ∧ ∀ k : Lane, (levelOutputs r).firstOff[k] = 0#32 := by
  refine ⟨?_, ?_, ?_, fun k => ?_⟩
  · exact Bool.eq_false_iff.2 (mt (resultValid_iff r).1 h)
  · exact Bool.eq_false_iff.2 fun hfound => h ((levelOutputs_found_iff r).1 hfound).1
  · rw [levelOutputs_matchedPlanes, if_neg h]
  · rw [levelOutputs_firstOff, if_neg fun hk => h hk.1]

/-! ## START and END as whole steps -/

/-- Settles O15: the step opens the file over `S0`, where `ERRCODE` is 0 already. -/
theorem startOpensTheFile : Obligations.StartOpensTheFile := fun s width hw =>
  exec_of_commandStep (i := .start 2 width) (startStep_of_good hw s.regs)

/-- Settles O32: the step drops the partial sample and closes the file. -/
theorem endFinishesTheFile : Obligations.EndFinishesTheFile := fun _ hs hc =>
  exec_of_commandStep (i := .endFile) (endStep_of_whole hs hc)

/-- Settles O33: the step raises UnpairedSample, and ERROR is not DONE. -/
theorem endOfAnOddFileIsUnpaired : Obligations.EndOfAnOddFileIsUnpaired := fun _ hs hc =>
  ⟨_, exec_of_commandStep (i := .endFile) (endStep_of_unpaired hs hc), rfl,
    resultPorts_of_not_done (by rw [State.commit_regs, Registers.raise_state]; decide)⟩

/-- Settles O34: outside RUN the step commits the registers it found. -/
theorem endOutsideRunIsIgnored : Obligations.EndOutsideRunIsIgnored := fun _ hs =>
  exec_of_commandStep (i := .endFile) (endStep_of_not_run hs)

/-! ## The host's saturated descriptor (R158, R216) -/

/-- The saturated fields of the host's START fit its format. -/
theorem hostStart_wellFormed (channels width : Nat) : (hostStart channels width).wellFormed = true := by
  simp only [hostStart, Instr.wellFormed, fitsField, saturateField, Config.fieldRange,
    Bool.and_eq_true, decide_eq_true_eq]
  omega

/-- After a reset the next edge runs the command that is presented, if a word can carry it. -/
theorem step_present_encode {s : State} (hs : s.resetSeen = true) {i : Instr}
    (hi : i.wellFormed = true) :
    step (s.present (encode i)) = .next (s.commit (commandStep i s.regs)) := by
  rw [step_present, decodeOfEncodeIsTheCommand i hi, State.accept, if_pos hs, exec_eq_commit]

/-- Settles O18: a number saturates to 2, 16 or 24 only if it is that number, so the saturated descriptor
is bad in the same way as the true one. -/
theorem saturatedBadDescriptorIsRefused : Obligations.SaturatedBadDescriptorIsRefused := by
  intro s channels width hs hbad
  have h2 := saturateField_eq_iff (n := channels) (c := 2) (by decide)
  have h16 := saturateField_eq_iff (n := width) (c := 16) (by decide)
  have h24 := saturateField_eq_iff (n := width) (c := 24) (by decide)
  have hstart := startStep_of_bad (channels := saturateField channels) (width := saturateField width)
    (by simpa only [ne_eq, h2, h16, h24] using hbad) s.regs
  simp only [h16, h24] at hstart
  have hstep := step_present_encode hs (hostStart_wellFormed channels width)
  rw [hostStart, commandStep, hstart] at hstep
  exact ⟨_, hstep, rfl, rfl⟩

/-! ## The transition table of `STATE` (R167) -/

/-- The START column: RUN for a good descriptor, ERROR for every other. -/
theorem startStep_state (channels width : Nat) (r : Registers) :
    (startStep channels width r).1.state = nextPhase r (.start channels width) := by
  rw [nextPhase]
  split
  · next h =>
    obtain ⟨hw, rfl⟩ := h
    rw [startStep_of_good hw, Registers.openFile_state]
  · next h => rw [startStep_of_bad (by omega), Registers.raise_state]

/-- The DATA column: no byte opens or closes a file. -/
theorem dataStep_state (d : Byte) (r : Registers) : (dataStep d r).1.state = r.state := by
  obtain ⟨-, h⟩ | ⟨-, -, h⟩ | ⟨-, -, -, h⟩ | ⟨-, -, -, h⟩ := dataStep_cases d r <;> rw [h]
  · rw [Registers.storeByte_frame]
  · rw [pairStep_regs]

/-- The END column: in RUN the waiting left sample decides, and every other state stays. -/
theorem endStep_state (r : Registers) : (endStep r).1.state = nextPhase r .endFile := by
  obtain ⟨hs, h⟩ | ⟨hs, hc, h⟩ | ⟨hs, hc, h⟩ := endStep_cases r <;> rw [h]
  · cases hr : r.state with
    | run => exact absurd hr hs
    | _ => simp [nextPhase, hr]
  · simp [nextPhase, hs, hc]
  · simp [nextPhase, hs, hc]

/-- The columns of the four commands. -/
theorem commandStep_state (i : Instr) (r : Registers) :
    (commandStep i r).1.state = nextPhase r i := by
  cases i with
  | clr => rfl
  | start channels width => exact startStep_state channels width r
  | data d => exact dataStep_state d r
  | endFile => exact endStep_state r

/-- Settles O36: a reset edge, an accepted command and a quiet edge each have their column; the premise
leaves out a quiet edge before the first reset. -/
theorem stateFollowsTheTransitionTable : Obligations.StateFollowsTheTransitionTable := by
  intro s t hseen h
  obtain ⟨hr, rfl⟩ | ⟨i, hr, hi, -, rfl⟩ | ⟨hr, hi, -, rfl⟩ | ⟨hr, -, hs, -⟩ := step_next_cases h
  · simp [nextPhaseAt, hr]
  · simp [nextPhaseAt, hr, hi, commandStep_state]
  · simp [nextPhaseAt, hr, hi]
  · simp [hr, hs] at hseen

/-! ## A discarded file leaves no trace (R157, R172, R173) -/

/-- A sequence of commands goes on from the state its first command commits. -/
theorem execAll_cons (i : Instr) (is : List Instr) (s : State) :
    execAll (i :: is) s = execAll is (s.commit (commandStep i s.regs)) := by
  rw [execAll, exec_eq_commit]

/-- A commit takes nothing from the state before it but the model's own fields. -/
theorem State.commit_congr {s t : State} (hinputs : t.inputs = s.inputs)
    (hseen : t.resetSeen = s.resetSeen) (hdraws : t.draws = s.draws) (p : Registers × Events) :
    t.commit p = s.commit p := by
  simp only [State.commit, hinputs, hseen, hdraws]

/-- Settles O17: commands change the registers and the events only, and the discarding command replaces
both by values that do not depend on them. -/
theorem earlierFilesLeaveNoTrace : Obligations.EarlierFilesLeaveNoTrace := by
  intro s t before after i hi ht
  obtain ⟨u, hu, hinputs, hseen, hdraws⟩ := execAll_next before s
  obtain rfl : u = t := by
    rw [hu] at ht
    injection ht
  calc execAll (i :: after) u
      = execAll after (u.commit (commandStep i u.regs)) := execAll_cons i after u
    _ = execAll after (s.commit (commandStep i s.regs)) := by
        rw [commandStep_of_discards hi u.regs s.regs, State.commit_congr hinputs hseen hdraws]
    _ = execAll (i :: after) s := (execAll_cons i after s).symm

end Sys2Proof.Machine

/-! PROOFS. The errors of a descriptor (spec/60_exceptions.md): what a whole START step does when it
refuses its file. -/

namespace Sys2Proof.Machine

/-- A bad descriptor raises its one error over `S0` and emits nothing: the width decides which, so a
START that violates both conditions reports the width (R182, R183, R186). -/
theorem exec_start_of_bad {channels width : Nat} (h : channels ≠ 2 ∨ (width ≠ 16 ∧ width ≠ 24))
    (s : State) :
    exec (.start channels width) s = .next (s.commit (Registers.reset.raise
      (if width = 16 ∨ width = 24 then .invalidChannelLayout else .unsupportedFormat), .silent)) :=
  exec_of_commandStep (i := .start channels width) (startStep_of_bad h s.regs)

/-- Settles O16: the width's condition selects the code of the error that a bad descriptor raises. -/
theorem startRefusesABadDescriptor : Obligations.StartRefusesABadDescriptor := by
  refine ⟨fun s channels width h16 h24 => ?unsupportedWidth,
    fun s channels width hwidth hchannels => ?unsupportedChannels⟩
  case unsupportedWidth =>
    rw [exec_start_of_bad (.inr ⟨h16, h24⟩), if_neg (not_or.2 ⟨h16, h24⟩)]
    rfl
  case unsupportedChannels =>
    rw [exec_start_of_bad (.inl hchannels), if_pos hwidth]
    rfl

end Sys2Proof.Machine

/-! PROOFS. Reset and hazards (spec/70_reset_and_hazards.md): the reset edge, the block before its first
reset, and how close two event strobes can be. -/

namespace Sys2Proof.Machine

/-! ## The reset edge (R210, R212) -/

/-- Settles O9: the rule of a reset edge reads `rst` only, so it holds for every `cmd_valid` and `cmd`. -/
theorem resetBeatsACommand : Obligations.ResetBeatsACommand :=
  ⟨fun s valid cmd rest => step_of_rst (s := { s with inputs := ⟨true, valid, cmd⟩ :: rest }) rfl,
    eventPorts_silent⟩

/-! ## Before the first reset (R211) -/

/-- Before the first reset a command has no meaning, whatever it is. -/
theorem State.accept_of_unreset {s : State} (hs : s.resetSeen = false) (i : Instr) :
    s.accept i = .refused .commandBeforeReset := by
  simp [State.accept, hs]

/-- Before the first reset an edge that accepts a command refuses it. -/
theorem step_of_accepted_unreset {s : State} {i : Instr} (hs : s.resetSeen = false)
    (hr : s.port.rst = false) (hi : s.port.accepted = some i) :
    step s = .refused .commandBeforeReset := by
  simp [step, clockEdge, hr, hi, State.accept_of_unreset (s := s.popPort) hs]

/-- Before the first reset an edge with neither a reset nor a command leaves free values. -/
theorem step_of_idle_unreset {s : State} (hs : s.resetSeen = false) (hr : s.port.rst = false)
    (hi : s.port.accepted = none) : step s = .next s.popPort.afterUnreset := by
  simp [step, clockEdge, State.quietEdge, hr, hi, hs]

/-- Before the first reset only a reset edge makes the block one that has been reset. -/
theorem step_resetSeen_of_unreset {s t : State} (hs : s.resetSeen = false) (h : step s = .next t) :
    t.resetSeen = s.port.rst := by
  obtain ⟨hr, rfl⟩ | ⟨i, -, -, hseen, -⟩ | ⟨-, -, hseen, -⟩ | ⟨hr, -, -, rfl⟩ := step_next_cases h
  · exact hr.symm
  · exact absurd hseen (by simp [hs])
  · exact absurd hseen (by simp [hs])
  · exact hs.trans hr.symm

/-- Settles O11: the outputs are hidden, a command on the port or presented there is refused, a quiet edge
leaves free values, and only a reset edge ends this. -/
theorem nothingIsClaimedBeforeTheFirstReset : Obligations.NothingIsClaimedBeforeTheFirstReset := by
  intro s hs
  refine ⟨by simp [State.visible, hs], rfl, fun hr hv => ?command, fun w => ?presented,
    fun hr hv => ?quiet, fun t => step_resetSeen_of_unreset hs⟩
  case command => exact step_of_accepted_unreset hs hr (PortInput.accepted_of_valid hr hv)
  case presented => exact (step_present s w).trans (State.accept_of_unreset hs (decode w))
  case quiet => exact step_of_idle_unreset hs hr (PortInput.accepted_of_not_valid hv)

/-! ## The registers on both sides of an event (R100, R109) -/

/-- A step with a sample event is the step of a DATA command, on the registers as on the events. -/
theorem step_data_of_norm {s t : State} (hs : s.resetSeen = true) (h : step s = .next t)
    (hn : t.events.norm ≠ none) :
    ∃ d, t.regs = (dataStep d s.regs).1 ∧ t.events = (dataStep d s.regs).2 := by
  obtain ⟨-, d, hd⟩ := onlyDataInRunEmitsEvents.1 s t hs h hn
  obtain ⟨-, rfl⟩ | ⟨i, -, hi, rfl⟩ | ⟨-, hi, -⟩ := step_next_cases_of_reset hs h
  · exact absurd rfl hn
  · obtain rfl : i = .data d := Option.some.inj (hi.symm.trans hd)
    exact ⟨d, rfl, rfl⟩
  · exact absurd (hi.symm.trans hd) nofun

/-- A step with a pair event has a sample event too (R43). -/
theorem step_norm_of_pair {s t : State} (hs : s.resetSeen = true) (h : step s = .next t)
    (hp : t.events.pair ≠ none) : t.events.norm ≠ none := by
  obtain ⟨c, hc⟩ := onlyDataInRunEmitsEvents.2.1 s t hs h hp
  simp [hc]

/-- The first byte of a sample does not complete it, in either width. -/
theorem bidx_ne_zero_of_lastByte {w24 : Bool} {bidx : BitVec 2} (h : lastByte w24 bidx = true) :
    bidx ≠ 0#2 := by
  obtain ⟨-, rfl⟩ | ⟨-, rfl⟩ := (lastByte_iff w24 bidx).1 h <;> decide

/-- A byte that completes a sample is not its first one, and the next byte is the first of another. -/
theorem dataStep_bidx_of_norm {d : Byte} {r : Registers} (hn : (dataStep d r).2.norm ≠ none) :
    r.bidx ≠ 0#2 ∧ (dataStep d r).1.bidx = 0#2 := by
  obtain ⟨-, hd⟩ | ⟨-, -, hd⟩ | ⟨-, hl, -, hd⟩ | ⟨-, hl, -, hd⟩ := dataStep_cases d r <;>
    rw [hd] at hn ⊢
  · exact absurd rfl hn
  · exact absurd rfl hn
  · exact ⟨bidx_ne_zero_of_lastByte hl, rfl⟩
  · exact ⟨bidx_ne_zero_of_lastByte hl, rfl⟩

/-- A byte that completes a pair finds a left sample waiting and leaves none. -/
theorem dataStep_ch_of_pair {d : Byte} {r : Registers} (hp : (dataStep d r).2.pair ≠ none) :
    r.ch = true ∧ (dataStep d r).1.ch = false := by
  obtain ⟨-, hd⟩ | ⟨-, -, hd⟩ | ⟨-, -, -, hd⟩ | ⟨-, -, hc, hd⟩ := dataStep_cases d r <;>
    rw [hd] at hp ⊢
  · exact absurd rfl hp
  · exact absurd rfl hp
  · exact absurd rfl hp
  · exact ⟨hc, rfl⟩

/-- What a step with a sample event says of `BIDX` before and after it. -/
theorem step_bidx_of_norm {s t : State} (hs : s.resetSeen = true) (h : step s = .next t)
    (hn : t.events.norm ≠ none) : s.regs.bidx ≠ 0#2 ∧ t.regs.bidx = 0#2 := by
  obtain ⟨d, hregs, hevents⟩ := step_data_of_norm hs h hn
  rw [hevents] at hn
  rw [hregs]
  exact dataStep_bidx_of_norm hn

/-- What a step with a pair event says of `CH` before and after it. -/
theorem step_ch_of_pair {s t : State} (hs : s.resetSeen = true) (h : step s = .next t)
    (hp : t.events.pair ≠ none) : s.regs.ch = true ∧ t.regs.ch = false := by
  obtain ⟨d, hregs, hevents⟩ := step_data_of_norm hs h (step_norm_of_pair hs h hp)
  rw [hevents] at hp
  rw [hregs]
  exact dataStep_ch_of_pair hp

/-! ## How far a pair has come (R223)

A pair takes at least four bytes, two for each sample. `2 * CH + BIDX` counts them: no step adds more
than one, and the byte that completes a pair needs three before it. -/

/-- The bytes of the current pair that have arrived, a left sample counted as two. -/
def Registers.pairProgress (r : Registers) : Nat := 2 * r.ch.toNat + r.bidx.toNat

/-- Storing a byte adds at most that byte: `BIDX` counts modulo 4. -/
theorem storeByte_pairProgress_le (r : Registers) (d : Byte) :
    (r.storeByte d).pairProgress ≤ r.pairProgress + 1 := by
  have hmod : (r.bidx + 1#2).toNat ≤ r.bidx.toNat + 1 := by
    rw [BitVec.toNat_add]
    exact Nat.mod_le _ _
  rw [Registers.storeByte_frame]
  simp only [Registers.pairProgress]
  omega

/-- DATA adds at most one byte. A completed left sample counts two, and one of them was there already. -/
theorem dataStep_pairProgress_le (d : Byte) (r : Registers) :
    (dataStep d r).1.pairProgress ≤ r.pairProgress + 1 := by
  obtain ⟨-, hd⟩ | ⟨-, -, hd⟩ | ⟨-, hl, hc, hd⟩ | ⟨-, -, -, hd⟩ := dataStep_cases d r <;> rw [hd]
  · exact Nat.le_succ _
  · exact storeByte_pairProgress_le r d
  · have hpos : r.bidx.toNat ≠ 0 := BitVec.toNat_ne_iff_ne.2 (bidx_ne_zero_of_lastByte hl)
    simp only [Registers.pairProgress, hc, Bool.toNat_true, Bool.toNat_false, BitVec.toNat_ofNat]
    omega
  · exact Nat.zero_le _

/-- END drops the partial sample or does nothing: it never adds a byte. -/
theorem endStep_pairProgress_le (r : Registers) : (endStep r).1.pairProgress ≤ r.pairProgress := by
  obtain ⟨-, h⟩ | ⟨-, -, h⟩ | ⟨-, -, h⟩ := endStep_cases r <;> rw [h] <;>
    simp [Registers.pairProgress]

/-- START leaves no byte of a pair, whether it opens the file or refuses it. -/
theorem startStep_pairProgress (channels width : Nat) (r : Registers) :
    (startStep channels width r).1.pairProgress = 0 := by
  obtain ⟨-, -, h⟩ | ⟨-, -, h⟩ | ⟨-, -, h⟩ := startStep_cases channels width r <;> rw [h] <;> rfl

/-- No command brings a pair further by more than one byte. -/
theorem commandStep_pairProgress_le (i : Instr) (r : Registers) :
    (commandStep i r).1.pairProgress ≤ r.pairProgress + 1 := by
  cases i with
  | clr => exact Nat.zero_le _
  | start channels width => exact (startStep_pairProgress channels width r).trans_le (Nat.zero_le _)
  | data d => exact dataStep_pairProgress_le d r
  | endFile => exact (endStep_pairProgress_le r).trans (Nat.le_succ _)

/-- No step after a reset brings a pair further by more than one byte. -/
theorem step_pairProgress_le {s t : State} (hs : s.resetSeen = true) (h : step s = .next t) :
    t.regs.pairProgress ≤ s.regs.pairProgress + 1 := by
  obtain ⟨-, rfl⟩ | ⟨i, -, -, rfl⟩ | ⟨-, -, rfl⟩ := step_next_cases_of_reset hs h
  · exact Nat.zero_le _
  · exact commandStep_pairProgress_le i s.regs
  · exact Nat.le_succ _

/-- A step with a pair event needs three bytes of the pair before it and leaves none. -/
theorem step_pairProgress_of_pair {s t : State} (hs : s.resetSeen = true) (h : step s = .next t)
    (hp : t.events.pair ≠ none) : 3 ≤ s.regs.pairProgress ∧ t.regs.pairProgress = 0 := by
  obtain ⟨hbidx, hbidx'⟩ := step_bidx_of_norm hs h (step_norm_of_pair hs h hp)
  obtain ⟨hch, hch'⟩ := step_ch_of_pair hs h hp
  have hpos : s.regs.bidx.toNat ≠ 0 := BitVec.toNat_ne_iff_ne.2 hbidx
  constructor
  · simp only [Registers.pairProgress, hch, Bool.toNat_true]
    omega
  · simp [Registers.pairProgress, hch', hbidx']

/-- While fewer than three bytes of a pair have arrived, the next step has no pair event. -/
theorem step_pair_none_of_pairProgress_lt {s t : State} (hs : s.resetSeen = true)
    (h : step s = .next t) (hlt : s.regs.pairProgress < 3) : t.events.pair = none := by
  by_contra hp
  exact absurd (step_pairProgress_of_pair hs h hp).1 (Nat.not_le.2 hlt)

/-- Settles O40: a sample event leaves `BIDX` at 0, where no byte completes a sample; a pair event leaves
the pair's progress at 0, which the next two steps bring to 2 at most, and a pair event needs 3. -/
theorem eventStrobesAreSpaced : Obligations.EventStrobesAreSpaced := by
  refine ⟨fun s t u hs ht hu hn => ?norm, fun s t u v w hs ht hu hv hw hp => ?pair⟩
  case norm =>
    by_contra hn'
    exact (step_bidx_of_norm (step_keeps_resetSeen hs ht) hu hn').1 (step_bidx_of_norm hs ht hn).2
  case pair =>
    have hts := step_keeps_resetSeen hs ht
    have hus := step_keeps_resetSeen hts hu
    have hvs := step_keeps_resetSeen hus hv
    have ht0 := (step_pairProgress_of_pair hs ht hp).2
    have hu1 := step_pairProgress_le hts hu
    have hv2 := step_pairProgress_le hus hv
    exact ⟨step_pair_none_of_pairProgress_lt hts hu (by omega),
      step_pair_none_of_pairProgress_lt hus hv (by omega),
      step_pair_none_of_pairProgress_lt hvs hw (by omega)⟩

end Sys2Proof.Machine
